-- ==== Sys2Proof/Word.lean ====
section
/-! DEFINITION. The word types of the block (spec 00_scope.md R7, 10_state.md R20): bytes of the serial channel and
the latch, the 16-bit registers, and the spec's own 32-bit stimulus words. -/

namespace Sys2Proof

/-- A byte: the serial channel, the latch, DATA (R7, R23). -/
abbrev Byte := BitVec 8

/-- A 16-bit register or its number on the bus: STAT, MODE, CTRL, BAUD (R5 `REG_WIDTH`). -/
abbrev Half := BitVec 16

/-- A stimulus word (R71). -/
abbrev Word := BitVec 32

end Sys2Proof
end

