-- ==== Sys2Proof/Config.lean ====
section
/-! DEFINITION. The implementation parameters of the block (spec 00_scope.md R5). A FIXED parameter is a definition; an
OPEN one is a constant with no body, so that a proof about it holds for every value of its range (R5, log entries 5 to 10).
The types the parameters range over stand here too. -/

namespace Sys2Proof

/-- Which controller peripheral is configured (R34). -/
inductive PadKind where
  | digital
  | analog
  | mouse
  deriving DecidableEq, Repr, Inhabited

/-- The four devices, as the acknowledge policy tells them apart (R119). -/
inductive DeviceKind where
  | digital
  | analog
  | mouse
  | card
  deriving DecidableEq, Repr, Inhabited

/-- The front-end's input record (R38): button bits are 1 when pressed, axes are unsigned, the mouse's deltas are
two's complement. -/
structure Input where
  btn0 : Byte
  btn1 : Byte
  rx : Byte
  ry : Byte
  lx : Byte
  ly : Byte
  dx : Byte
  dy : Byte
  deriving DecidableEq, Repr, Inhabited

/-- A value of the parameter `ACK_IRQ_DELAY`, an integer `N >= 1` (R5), held as how far it exceeds 1, so that every
value of this type is a legal one (log entry 5). -/
structure AckDelay where
  beyondOne : Nat
  deriving DecidableEq, Repr, Inhabited

/-- One accepted transition of a device: the device, its stage before the byte and its stage after it. -/
structure AckRow where
  kind : DeviceKind
  before : Nat
  after : Nat
  deriving DecidableEq, Repr, Inhabited

/-- A value of the parameter `AckPolicy` (R119): the three the spec names, and any other one as the list of the
accepted transitions that it acknowledges (log entry 6). What each acknowledges is `Machine.policyAcks`. -/
inductive AckPolicy where
  /-- `AckPolicy_default`: every accepted byte but the last of its sequence. -/
  | default
  /-- `AckPolicy_every`: every accepted byte. -/
  | every
  /-- `AckPolicy_mouseSilent`: the default, but the mouse never acknowledges. -/
  | mouseSilent
  /-- Any other policy, by the accepted transitions it acknowledges. -/
  | table (rows : List AckRow)
  deriving DecidableEq, Repr

/-- The parameters one machine keeps for its whole life and its exchanges read. -/
structure Params where
  ackDelay : AckDelay
  ackPolicy : AckPolicy
  deriving DecidableEq, Repr

namespace Config

/-- FIXED: the idle sentinel byte (R5 `IDLE`). -/
def idle : Byte := 0xFF#8

/-- OPEN: `ACK_IRQ_DELAY` (R5, U7), log entry 5. -/
opaque ackIrqDelay : AckDelay

/-- OPEN with default: the `AckPolicy` a run starts with is the spec's default (R5, R119, U8), log entry 6. Statements
over all states hold for every policy. -/
def ackPolicy : AckPolicy := .default

/-- OPEN: `PAD_KIND0`, the pad configured at the start of a run (R5, U10), log entry 7. -/
opaque padKind0 : PadKind

/-- OPEN: `CARD_IMAGE`, byte `i` of sector `k` at the start of a run (R5, U6), log entry 8. -/
opaque cardImage (k i : Nat) : Byte

/-- Free: the input record before the first SETIN (R43, U5), log entry 9. -/
opaque inputAtPowerOn : Input

/-- OPEN: `JOY_BASE`, the bus address of offset 0 of the register window (R5, R57, U9), log entry 10. -/
opaque joyBase : Nat

end Config

end Sys2Proof
end

