-- ==== Sys2Proof/Syntax.lean ====
section
/-! DEFINITION. What the block is given: the instructions (one constructor per row of spec/opcode_table.json, R83), the raw
forms they are read from (stimulus words R71, bus accesses R70, serial bytes R72), and why a raw form is turned away. -/

namespace Sys2Proof

/-- The rows of spec/opcode_table.json. Operands have exactly the width of their field, so every term is well formed. -/
inductive Instr where
  /-- `RD DATA` (R90). -/
  | rdData
  /-- `WR DATA, b` (R91). -/
  | wrData (b : Byte)
  /-- `RD STAT` (R92). -/
  | rdStat
  /-- `WR STAT, v` (R93). -/
  | wrStat (v : Half)
  /-- `RD MODE` (R94). -/
  | rdMode
  /-- `WR MODE, v` (R95). -/
  | wrMode (v : Half)
  /-- `RD CTRL` (R96). -/
  | rdCtrl
  /-- `WR CTRL, v` (R97). -/
  | wrCtrl (v : Half)
  /-- `RD BAUD` (R98). -/
  | rdBaud
  /-- `WR BAUD, v` (R99). -/
  | wrBaud (v : Half)
  /-- `STEP n` (R117). -/
  | step (n : Half)
  /-- `RESET` (R220). -/
  | reset
  /-- `SETIN BTN, v`: `btn0` is `v[7:0]`, `btn1` is `v[15:8]` (R71, R123). -/
  | setinBtn (btn0 btn1 : Byte)
  /-- `SETIN RX, v` (R123). -/
  | setinRx (v : Byte)
  /-- `SETIN RY, v` (R123). -/
  | setinRy (v : Byte)
  /-- `SETIN LX, v` (R123). -/
  | setinLx (v : Byte)
  /-- `SETIN LY, v` (R123). -/
  | setinLy (v : Byte)
  /-- `SETIN DX, v` (R123). -/
  | setinDx (v : Byte)
  /-- `SETIN DY, v` (R123). -/
  | setinDy (v : Byte)
  /-- `CONFIG DIGITAL` (R124). -/
  | configDigital
  /-- `CONFIG ANALOG` (R124). -/
  | configAnalog
  /-- `CONFIG MOUSE` (R124). -/
  | configMouse
  /-- `CONFIG CARD` (R125). -/
  | configCard
  /-- Serial byte `0x01` (R72, R112). -/
  | addrPad
  /-- Serial byte `0x81` (R72, R112). -/
  | addrCard
  /-- Serial byte `0x42` (R72, R132, R142, R152). -/
  | padPoll
  /-- Serial byte `0x44` (R72, R153). -/
  | padMode
  /-- Serial byte `0x52` (R72, R172). -/
  | cardRead
  /-- Serial byte `0x57` (R72, R172). -/
  | cardWrite
  deriving DecidableEq, Repr

/-- Format BUS (R70): the bus master's access at byte offset `off` of the register window. A read asks for `n` bytes; a write
carries its number as the bytes of a byte-addressed map, lowest address first (R53: bits 7:0 first), so its width is how
many there are. -/
inductive BusAccess where
  | read (off : BitVec 4) (n : Nat)
  | write (off : BitVec 4) (wdata : List Byte)
  deriving DecidableEq, Repr

/-- One event as the environment gives it, not decoded yet: a stimulus word (R71), a bus access (R70), or a byte from the
bus master on the serial channel (R72). -/
inductive Stimulus where
  | word (w : Word)
  | access (a : BusAccess)
  | serial (b : Byte)
  deriving DecidableEq, Repr

/-- Why a stimulus has no meaning: the spec's `refuse`. -/
inductive DecodeError where
  /-- A word that decodes to nothing (R71, U3). -/
  | undefinedWord (w : Word)
  /-- An access that is not one of the ten (R52, R78, U1, U2). -/
  | undefinedAccess (a : BusAccess)
  deriving DecidableEq, Repr

end Sys2Proof
end

