-- ==== Sys2Proof/WellFormed.lean ====
section
/-! DEFINITION. When a stimulus is well formed, read off spec/opcode_table.json and R52 alone, independently of the decoder: a
stimulus word is an instance of some row's match and mask (R83), a bus access has the width of the register at its offset
(R51, R52), a serial byte is any byte (R79). -/

namespace Sys2Proof

/-- A row of the opcode table over the 32-bit stimulus word: a word is the row's event when `w & mask = match` (R83). -/
structure OpcodeRow where
  mnemonic : String
  mask : Word
  bits : Word
  deriving DecidableEq, Repr

/-- The word is this row's event (R83). -/
def OpcodeRow.covers (r : OpcodeRow) (w : Word) : Bool := w &&& r.mask == r.bits

/-- The ten BUS rows (R70). -/
def busRows : List OpcodeRow := [
  ⟨"RD_DATA", 0xFFFFFFFF#32, 0x00000000#32⟩,
  ⟨"WR_DATA", 0xFFFFFF00#32, 0x10000000#32⟩,
  ⟨"RD_STAT", 0xFFFFFFFF#32, 0x04000000#32⟩,
  ⟨"WR_STAT", 0xFFFF0000#32, 0x14000000#32⟩,
  ⟨"RD_MODE", 0xFFFFFFFF#32, 0x08000000#32⟩,
  ⟨"WR_MODE", 0xFFFF0000#32, 0x18000000#32⟩,
  ⟨"RD_CTRL", 0xFFFFFFFF#32, 0x0A000000#32⟩,
  ⟨"WR_CTRL", 0xFFFF0000#32, 0x1A000000#32⟩,
  ⟨"RD_BAUD", 0xFFFFFFFF#32, 0x0E000000#32⟩,
  ⟨"WR_BAUD", 0xFFFF0000#32, 0x1E000000#32⟩]

/-- The thirteen EVT rows (R71, R83). -/
def eventRows : List OpcodeRow := [
  ⟨"STEP", 0xFFFF0000#32, 0x20000000#32⟩,
  ⟨"RESET", 0xFFFFFFFF#32, 0x30000000#32⟩,
  ⟨"SETIN_BTN", 0xFFFF0000#32, 0x40000000#32⟩,
  ⟨"SETIN_RX", 0xFFFFFF00#32, 0x41000000#32⟩,
  ⟨"SETIN_RY", 0xFFFFFF00#32, 0x42000000#32⟩,
  ⟨"SETIN_LX", 0xFFFFFF00#32, 0x43000000#32⟩,
  ⟨"SETIN_LY", 0xFFFFFF00#32, 0x44000000#32⟩,
  ⟨"SETIN_DX", 0xFFFFFF00#32, 0x45000000#32⟩,
  ⟨"SETIN_DY", 0xFFFFFF00#32, 0x46000000#32⟩,
  ⟨"CONFIG_DIGITAL", 0xFFFFFFFF#32, 0x50000000#32⟩,
  ⟨"CONFIG_ANALOG", 0xFFFFFFFF#32, 0x50000001#32⟩,
  ⟨"CONFIG_MOUSE", 0xFFFFFFFF#32, 0x50000002#32⟩,
  ⟨"CONFIG_CARD", 0xFFFFFFFF#32, 0x51000000#32⟩]

/-- Every row that is an instance of a stimulus word (R83). -/
def stimulusRows : List OpcodeRow := busRows ++ eventRows

/-- The six SER rows: the byte values that select something (R72). -/
def serialRows : List (String × Byte) := [
  ("ADDR_PAD", 0x01#8),
  ("ADDR_CARD", 0x81#8),
  ("PAD_POLL", 0x42#8),
  ("PAD_MODE", 0x44#8),
  ("CARD_READ", 0x52#8),
  ("CARD_WRITE", 0x57#8)]

/-- The width in bytes of the register at an offset of the window, if one is there (R51, R52). -/
def registerWidth (off : BitVec 4) : Option Nat :=
  if off = 0x0#4 then some 1
  else if off = 0x4#4 ∨ off = 0x8#4 ∨ off = 0xA#4 ∨ off = 0xE#4 then some 2
  else none

/-- A stimulus word is well formed when a row of the table covers it (R71, R83). -/
def wordWellFormed (w : Word) : Bool := stimulusRows.any fun r => r.covers w

/-- A bus access is well formed when its width is the register's (R52). -/
def BusAccess.wellFormed : BusAccess → Bool
  | .read off n => registerWidth off == some n
  | .write off wdata => registerWidth off == some wdata.length

/-- The stimuli that the spec gives a meaning (R52, R71, R79). -/
def Stimulus.wellFormed : Stimulus → Bool
  | .word w => wordWellFormed w
  | .access a => a.wellFormed
  | .serial _ => true

/-- The mnemonic of an instruction's row. -/
def mnemonic : Instr → String
  | .rdData => "RD_DATA"
  | .wrData _ => "WR_DATA"
  | .rdStat => "RD_STAT"
  | .wrStat _ => "WR_STAT"
  | .rdMode => "RD_MODE"
  | .wrMode _ => "WR_MODE"
  | .rdCtrl => "RD_CTRL"
  | .wrCtrl _ => "WR_CTRL"
  | .rdBaud => "RD_BAUD"
  | .wrBaud _ => "WR_BAUD"
  | .step _ => "STEP"
  | .reset => "RESET"
  | .setinBtn _ _ => "SETIN_BTN"
  | .setinRx _ => "SETIN_RX"
  | .setinRy _ => "SETIN_RY"
  | .setinLx _ => "SETIN_LX"
  | .setinLy _ => "SETIN_LY"
  | .setinDx _ => "SETIN_DX"
  | .setinDy _ => "SETIN_DY"
  | .configDigital => "CONFIG_DIGITAL"
  | .configAnalog => "CONFIG_ANALOG"
  | .configMouse => "CONFIG_MOUSE"
  | .configCard => "CONFIG_CARD"
  | .addrPad => "ADDR_PAD"
  | .addrCard => "ADDR_CARD"
  | .padPoll => "PAD_POLL"
  | .padMode => "PAD_MODE"
  | .cardRead => "CARD_READ"
  | .cardWrite => "CARD_WRITE"

end Sys2Proof
end

