-- ==== Sys2Proof/Decode.lean ====
section
/-! DEFINITION. The decoder, total on every stimulus and rejecting by name (R52, R71, R78), and the encoder beside it, both
written from the field layouts of R70, R71 and R72. -/

namespace Sys2Proof

/-- `kind`, bits 31:28 of a stimulus word (R71). -/
def wordKind (w : Word) : BitVec 4 := w.extractLsb' 28 4

/-- `off`, bits 27:24 of a stimulus word (R71). -/
def wordOff (w : Word) : BitVec 4 := w.extractLsb' 24 4

/-- Bits 23:16 of a stimulus word, which must be 0 (R71). -/
def wordReserved (w : Word) : Byte := w.extractLsb' 16 8

/-- `data`, bits 15:0 of a stimulus word (R71). -/
def wordData (w : Word) : Half := w.extractLsb' 0 16

/-- Bits 7:0 of a 16-bit number. -/
def lowByte (v : Half) : Byte := v.extractLsb' 0 8

/-- Bits 15:8 of a 16-bit number. -/
def highByte (v : Half) : Byte := v.extractLsb' 8 8

/-- The bytes of a 16-bit number in a byte-addressed map, lowest address first (R53: little-endian). -/
def halfBytes (v : Half) : List Byte := [lowByte v, highByte v]

/-- An event without operand: its `data` must be 0 (R71). -/
def plainEvent (d : Half) (i : Instr) : Option Instr := if d = 0#16 then some i else none

/-- An event with a byte operand: bits 15:8 of its `data` must be 0 (R71). -/
def byteEvent (d : Half) (i : Byte → Instr) : Option Instr :=
  if highByte d = 0#8 then some (i (lowByte d)) else none

/-- The event with the given `kind`, `off` and `data` (R71). -/
def decodeFields (kind off : BitVec 4) (d : Half) : Option Instr :=
  match kind, off with
  | 0x0#4, 0x0#4 => plainEvent d .rdData
  | 0x0#4, 0x4#4 => plainEvent d .rdStat
  | 0x0#4, 0x8#4 => plainEvent d .rdMode
  | 0x0#4, 0xA#4 => plainEvent d .rdCtrl
  | 0x0#4, 0xE#4 => plainEvent d .rdBaud
  | 0x1#4, 0x0#4 => byteEvent d .wrData
  | 0x1#4, 0x4#4 => some (.wrStat d)
  | 0x1#4, 0x8#4 => some (.wrMode d)
  | 0x1#4, 0xA#4 => some (.wrCtrl d)
  | 0x1#4, 0xE#4 => some (.wrBaud d)
  | 0x2#4, 0x0#4 => some (.step d)
  | 0x3#4, 0x0#4 => plainEvent d .reset
  | 0x4#4, 0x0#4 => some (.setinBtn (lowByte d) (highByte d))
  | 0x4#4, 0x1#4 => byteEvent d .setinRx
  | 0x4#4, 0x2#4 => byteEvent d .setinRy
  | 0x4#4, 0x3#4 => byteEvent d .setinLx
  | 0x4#4, 0x4#4 => byteEvent d .setinLy
  | 0x4#4, 0x5#4 => byteEvent d .setinDx
  | 0x4#4, 0x6#4 => byteEvent d .setinDy
  | 0x5#4, 0x0#4 =>
    match d with
    | 0#16 => some .configDigital
    | 1#16 => some .configAnalog
    | 2#16 => some .configMouse
    | _ => none
  | 0x5#4, 0x1#4 => plainEvent d .configCard
  | _, _ => none

/-- The event a stimulus word stands for (R71): none where a "must be 0" field is not 0, the offset names no register or
field, or the `CONFIG` kind is above 2. -/
def decodeWord (w : Word) : Option Instr :=
  if wordReserved w = 0#8 then decodeFields (wordKind w) (wordOff w) (wordData w) else none

/-- The read of `n` bytes at an offset (R52, R70). -/
def decodeRead (off : BitVec 4) (n : Nat) : Option Instr :=
  if n = 1 then
    if off = 0x0#4 then some .rdData else none
  else if n = 2 then
    if off = 0x4#4 then some .rdStat
    else if off = 0x8#4 then some .rdMode
    else if off = 0xA#4 then some .rdCtrl
    else if off = 0xE#4 then some .rdBaud
    else none
  else none

/-- The write of one byte at an offset (R52, R70). -/
def decodeWriteByte (off : BitVec 4) (v : Byte) : Option Instr :=
  if off = 0x0#4 then some (.wrData v) else none

/-- The write of a 16-bit number at an offset (R52, R70). -/
def decodeWriteHalf (off : BitVec 4) (v : Half) : Option Instr :=
  if off = 0x4#4 then some (.wrStat v)
  else if off = 0x8#4 then some (.wrMode v)
  else if off = 0xA#4 then some (.wrCtrl v)
  else if off = 0xE#4 then some (.wrBaud v)
  else none

/-- The operation a bus access stands for: one of the ten of R52, or none. -/
def decodeAccess : BusAccess → Option Instr
  | .read off n => decodeRead off n
  | .write off [b] => decodeWriteByte off b
  | .write off [lo, hi] => decodeWriteHalf off (hi ++ lo)
  | .write _ _ => none

/-- The serial byte as an instruction (R72): the six values that select something are rows of their own; any other byte is
the `WR DATA` that carries it, because a byte is on the channel only inside a DATA write (R50, R79; log entry 11). -/
def decodeSerial (b : Byte) : Instr :=
  match b with
  | 0x01#8 => .addrPad
  | 0x81#8 => .addrCard
  | 0x42#8 => .padPoll
  | 0x44#8 => .padMode
  | 0x52#8 => .cardRead
  | 0x57#8 => .cardWrite
  | _ => .wrData b

/-- The decoder: total, and rejecting by name. -/
def decode : Stimulus → Except DecodeError Instr
  | .word w =>
    match decodeWord w with
    | some i => .ok i
    | none => .error (.undefinedWord w)
  | .access a =>
    match decodeAccess a with
    | some i => .ok i
    | none => .error (.undefinedAccess a)
  | .serial b => .ok (decodeSerial b)

/-- The stimulus an opcode-table row's bits stand for: a SER row has 8 bits (R72), every other row the 32 bits of a stimulus
word (R83). -/
def stimulusOfBits (nbits w : Nat) : Stimulus :=
  if nbits ≤ 8 then .serial (BitVec.ofNat 8 w) else .word (BitVec.ofNat 32 w)

/-- The instruction the decoder reads from a row's bits. -/
def decodeTableWord (nbits w : Nat) : Option Instr :=
  match decode (stimulusOfBits nbits w) with
  | .ok i => some i
  | .error _ => none

/-- A stimulus word from its fields (R71). -/
def makeWord (kind off : BitVec 4) (d : Half) : Word := kind ++ off ++ 0#8 ++ d

/-- The encoder: the stimulus word of an event (R71), the byte of a serial row (R72). -/
def encode : Instr → Stimulus
  | .rdData => .word (makeWord 0x0#4 0x0#4 0#16)
  | .rdStat => .word (makeWord 0x0#4 0x4#4 0#16)
  | .rdMode => .word (makeWord 0x0#4 0x8#4 0#16)
  | .rdCtrl => .word (makeWord 0x0#4 0xA#4 0#16)
  | .rdBaud => .word (makeWord 0x0#4 0xE#4 0#16)
  | .wrData b => .word (makeWord 0x1#4 0x0#4 (0#8 ++ b))
  | .wrStat v => .word (makeWord 0x1#4 0x4#4 v)
  | .wrMode v => .word (makeWord 0x1#4 0x8#4 v)
  | .wrCtrl v => .word (makeWord 0x1#4 0xA#4 v)
  | .wrBaud v => .word (makeWord 0x1#4 0xE#4 v)
  | .step n => .word (makeWord 0x2#4 0x0#4 n)
  | .reset => .word (makeWord 0x3#4 0x0#4 0#16)
  | .setinBtn b0 b1 => .word (makeWord 0x4#4 0x0#4 (b1 ++ b0))
  | .setinRx v => .word (makeWord 0x4#4 0x1#4 (0#8 ++ v))
  | .setinRy v => .word (makeWord 0x4#4 0x2#4 (0#8 ++ v))
  | .setinLx v => .word (makeWord 0x4#4 0x3#4 (0#8 ++ v))
  | .setinLy v => .word (makeWord 0x4#4 0x4#4 (0#8 ++ v))
  | .setinDx v => .word (makeWord 0x4#4 0x5#4 (0#8 ++ v))
  | .setinDy v => .word (makeWord 0x4#4 0x6#4 (0#8 ++ v))
  | .configDigital => .word (makeWord 0x5#4 0x0#4 0#16)
  | .configAnalog => .word (makeWord 0x5#4 0x0#4 1#16)
  | .configMouse => .word (makeWord 0x5#4 0x0#4 2#16)
  | .configCard => .word (makeWord 0x5#4 0x1#4 0#16)
  | .addrPad => .serial 0x01#8
  | .addrCard => .serial 0x81#8
  | .padPoll => .serial 0x42#8
  | .padMode => .serial 0x44#8
  | .cardRead => .serial 0x52#8
  | .cardWrite => .serial 0x57#8

/-- The bus access of one of the ten operations (R70), none for any other instruction. -/
def encodeAccess : Instr → Option BusAccess
  | .rdData => some (.read 0x0#4 1)
  | .wrData b => some (.write 0x0#4 [b])
  | .rdStat => some (.read 0x4#4 2)
  | .wrStat v => some (.write 0x4#4 (halfBytes v))
  | .rdMode => some (.read 0x8#4 2)
  | .wrMode v => some (.write 0x8#4 (halfBytes v))
  | .rdCtrl => some (.read 0xA#4 2)
  | .wrCtrl v => some (.write 0xA#4 (halfBytes v))
  | .rdBaud => some (.read 0xE#4 2)
  | .wrBaud v => some (.write 0xE#4 (halfBytes v))
  | .step _ => none
  | .reset => none
  | .setinBtn _ _ => none
  | .setinRx _ => none
  | .setinRy _ => none
  | .setinLx _ => none
  | .setinLy _ => none
  | .setinDx _ => none
  | .setinDy _ => none
  | .configDigital => none
  | .configAnalog => none
  | .configMouse => none
  | .configCard => none
  | .addrPad => none
  | .addrCard => none
  | .padPoll => none
  | .padMode => none
  | .cardRead => none
  | .cardWrite => none

end Sys2Proof
end

