-- ==== Sys2Proof/Machine/Memory.lean ====
section
/-! DEFINITION. The memory card's sector store (spec 20_memory.md R50, R60 to R62, 10_state.md R37) as a list of
(address, byte) cells in one canonical form, and the storage collaborator's two operations over it. -/

namespace Sys2Proof.Machine

/-- Bytes in one sector (R5 `SECTOR_BYTES`). -/
def sectorBytes : Nat := 128

/-- Sectors of the card (R5 `CARD_SECTORS`). -/
def cardSectors : Nat := 1024

/-- One sector: 128 bytes (R36, R61). -/
abbrev Sector := Vector Byte 128

/-- The sector store. The key of the byte at position `i` of sector `k` is `128 * k + i` (R62). -/
abbrev Memory := List Host.Cell

/-- What an unlisted address reads as. It only fixes the representation: every contents of the card is some list of cells,
and what a run starts with is the parameter `CARD_IMAGE` (R37, log entry 8). -/
def Memory.unlisted : Byte := 0x00#8

/-- The addresses of the store (R50: 131072 bytes). -/
def Memory.size : Nat := sectorBytes * cardSectors

/-- The byte at an address. -/
def Memory.read : Memory → Nat → Byte
  | [], _ => Memory.unlisted
  | (x, y) :: m, a => if a = x then y else Memory.read m a

/-- A listed cell, unless the byte is what an unlisted address reads as. -/
def Memory.cell (a : Nat) (b : Byte) : Memory := if b = Memory.unlisted then [] else [(a, b)]

/-- Writes one byte, keeping the canonical form. -/
def Memory.write : Memory → Nat → Byte → Memory
  | [], a, b => Memory.cell a b
  | (x, y) :: m, a, b =>
    if a < x then Memory.cell a b ++ (x, y) :: m
    else if a = x then Memory.cell a b ++ m
    else (x, y) :: Memory.write m a b

/-- Every listed address lies at or above `lo` and below the size, the addresses rise strictly, and no entry equals what an
unlisted address reads as. -/
def Memory.wfFrom : Nat → Memory → Bool
  | _, [] => true
  | lo, (x, y) :: m => decide (lo ≤ x) && decide (x < Memory.size) && y != Memory.unlisted && Memory.wfFrom (x + 1) m

/-- The canonical form. -/
def Memory.wf (m : Memory) : Bool := Memory.wfFrom 0 m

/-- Writes bytes at rising addresses. -/
def Memory.writeBytes : Memory → Nat → List Byte → Memory
  | m, _, [] => m
  | m, a, b :: bs => Memory.writeBytes (Memory.write m a b) (a + 1) bs

/-- The address of the byte at position `i` of sector `k` (R62). -/
def Memory.sectorAddress (k i : Nat) : Nat := sectorBytes * k + i

/-- The contents of sector `k`. -/
def Memory.sector (m : Memory) (k : Nat) : Sector := Vector.ofFn fun i => m.read (Memory.sectorAddress k i.val)

/-- `readSector(k)`: no meaning for an index of 1024 or more (R61, U13). -/
def Memory.readSector (m : Memory) (k : Nat) : Option Sector :=
  if k < cardSectors then some (m.sector k) else none

/-- `writeSector(k, d)`: replaces that one sector whole; no meaning for an index of 1024 or more (R61, U13). -/
def Memory.writeSector (m : Memory) (k : Nat) (d : Sector) : Option Memory :=
  if k < cardSectors then some (m.writeBytes (Memory.sectorAddress k 0) d.toList) else none

/-- The store with the contents of an image (R43 `store = CARD_IMAGE`). -/
@[irreducible] def Memory.ofImage (image : Nat → Nat → Byte) : Memory :=
  (List.range Memory.size).flatMap fun a => Memory.cell a (image (a / sectorBytes) (a % sectorBytes))

end Sys2Proof.Machine
end

