-- ==== Sys2Proof/Machine/State.lean ====
section
/-! DEFINITION. The state of the block (spec 10_state.md R20 to R38) with the model's own fields, the state after reset
(R43, R222), and the reasons a step can stop. -/

namespace Sys2Proof.Machine

/-- `deviceSelected` (R33): the device class addressed by the transaction in flight. -/
inductive Selection where
  | none
  | controller
  | memoryCard
  deriving DecidableEq, Repr, Inhabited

/-- Pad state (R35). `stage` may hold an invalid stage: the handlers answer it (R138, R146, R162). -/
structure Pad where
  stage : Nat
  analogMode : Bool
  deriving DecidableEq, Repr, Inhabited

/-- The command of the card transaction in flight (R36). -/
inductive CardCommand where
  | noCmd
  | read
  | write
  deriving DecidableEq, Repr, Inhabited

/-- Card state (R36). -/
structure Card where
  stage : Nat
  cmd : CardCommand
  addrHi : Byte
  addrLo : Byte
  buf : Sector
  fresh : Bool
  deriving DecidableEq, Repr

/-- The value a bus read returned, of the width of its register (R70). -/
inductive BusReply where
  | none
  | byte (b : Byte)
  | half (v : Half)
  deriving DecidableEq, Repr, Inhabited

/-- The state: the record of R20, then the model's own fields. -/
structure State where
  /-- MODE (R25). -/
  mode : Half
  /-- CTRL (R26). -/
  ctrl : Half
  /-- BAUD (R27). -/
  baud : Half
  /-- The receive latch (R28). -/
  rxData : Byte
  /-- The latch holds an unread byte (R29). -/
  rxPending : Bool
  /-- The last exchange was acknowledged (R30). -/
  ack : Bool
  /-- Steps left until `irq` is asserted; 0 is not armed (R31). -/
  irqTimer : Nat
  /-- The latched interrupt output (R32). -/
  irq : Bool
  /-- The source's `deviceSelected` (R33). -/
  sel : Selection
  /-- Which controller peripheral is configured (R34). -/
  padKind : PadKind
  /-- The pad (R35). -/
  pad : Pad
  /-- The memory card (R36). -/
  card : Card
  /-- The sector store (R37). -/
  store : Memory
  /-- The input record `in` (R38). -/
  input : Input
  /-- MODEL: the parameters R5 of this machine, never changed (log entries 5 and 6). -/
  par : Params
  /-- MODEL: what the last bus read returned to the bus master (log entry 3). -/
  reply : BusReply
  /-- MODEL: the environment's events that are still to be applied, the next one first (log entry 1). -/
  pending : List Stimulus
  deriving DecidableEq, Repr

/-- No event leads to a fault state (R200, R216), so there is no fault. -/
inductive Fault where
  deriving DecidableEq, Repr

/-- The only non-answer (R216). -/
inductive Refusal where
  /-- Raised by exec's arm of an instruction that has no meaning yet; safe. No arm raises it. -/
  | notModelled (mnemonic : String)
  /-- Raised by step for a stimulus the spec gives no meaning (R52, R71, U1 to U3); safe: nothing is answered. -/
  | undefinedStimulus (why : DecodeError)
  /-- Raised by an exchange whose card would call `writeSector` or `readSector` with an index of 1024 or more, which the spec
  gives no meaning (R61, U13); safe: no reachable state does so (R176). -/
  | sectorOutOfRange (index : Nat)
  deriving DecidableEq, Repr

/-- A freshly constructed pad (R35). -/
def Pad.initial : Pad := { stage := 0, analogMode := false }

/-- A freshly constructed card (R36). -/
def Card.initial : Card :=
  { stage := 0, cmd := .noCmd, addrHi := 0x00#8, addrLo := 0x00#8, buf := Vector.replicate 128 0x00#8, fresh := true }

/-- The start of a run (R222): the reset values of R43, a fresh pad of kind `PAD_KIND0`, a fresh card, the store holding
`CARD_IMAGE`, an input record nothing is known of; no event is waiting and nothing has been read. -/
def State.reset : State :=
  { mode := 0x0000#16
    ctrl := 0x0000#16
    baud := 0x0000#16
    rxData := Config.idle
    rxPending := false
    ack := false
    irqTimer := 0
    irq := false
    sel := .none
    padKind := Config.padKind0
    pad := Pad.initial
    card := Card.initial
    store := Memory.ofImage Config.cardImage
    input := Config.inputAtPowerOn
    par := { ackDelay := Config.ackIrqDelay, ackPolicy := Config.ackPolicy }
    reply := .none
    pending := [] }

end Sys2Proof.Machine
end

