-- ==== Sys2Proof/Machine/Operands.lean ====
section
/-! DEFINITION. The values an event or an exchange works on: register addresses, the protocol's constants (spec 30_encoding.md
R73), the card's address and checksum (R74, R75), the wire form of the buttons (R76), the bytes of a read (R53). -/

namespace Sys2Proof.Machine

/-- The bus address of a byte of the register window (R51, R57). -/
def registerAddress (off : BitVec 4) : Nat := Config.joyBase + off.toNat

/-- The offset an address of the bus has in the register window, if it lies in it (R50, R57). -/
def windowOffset (addr : Nat) : Option (BitVec 4) :=
  if Config.joyBase ≤ addr ∧ addr < Config.joyBase + 16 then some (BitVec.ofNat 4 (addr - Config.joyBase)) else none

/-- The bytes a read returned, lowest address first (R53). -/
def BusReply.bytes : BusReply → List Byte
  | .none => []
  | .byte b => [b]
  | .half v => halfBytes v

/-- The address byte of the pad (R72 `ADDR_PAD`). -/
def addrPadByte : Byte := 0x01#8
/-- The address byte of the card (R72 `ADDR_CARD`). -/
def addrCardByte : Byte := 0x81#8
/-- The poll command of a pad (R72 `PAD_POLL`). -/
def padPollByte : Byte := 0x42#8
/-- The mode-switch command of the analog pad (R72 `PAD_MODE`). -/
def padModeByte : Byte := 0x44#8
/-- The card's read command (R72 `CARD_READ`). -/
def cardReadByte : Byte := 0x52#8
/-- The card's write command (R72 `CARD_WRITE`). -/
def cardWriteByte : Byte := 0x57#8

/-- `ID_MOUSE` (R73). -/
def idMouse : Byte := 0x12#8
/-- `ID_DIGITAL` (R73). -/
def idDigital : Byte := 0x41#8
/-- `ID_ANALOG` (R73). -/
def idAnalog : Byte := 0x73#8
/-- `ID_HI` (R73). -/
def idHi : Byte := 0x5A#8
/-- `CARD_FLAG_FRESH` (R73). -/
def cardFlagFresh : Byte := 0x08#8
/-- `CARD_FLAG_USED` (R73). -/
def cardFlagUsed : Byte := 0x00#8
/-- `CARD_ID1` (R73). -/
def cardId1 : Byte := 0x5A#8
/-- `CARD_ID2` (R73). -/
def cardId2 : Byte := 0x5D#8
/-- The card's answer to the high byte of a sector address (R175). -/
def cardAddrAnswer : Byte := 0x00#8
/-- `CARD_ACK1` (R73). -/
def cardAck1 : Byte := 0x5C#8
/-- `CARD_ACK2` (R73). -/
def cardAck2 : Byte := 0x5D#8
/-- `CARD_GOOD` (R73). -/
def cardGood : Byte := 0x47#8

/-- The sector address `{hi, lo}`, most significant byte first (R74). -/
def sectorIndex (hi lo : Byte) : Nat := (hi ++ lo).toNat

/-- The card's checksum: the exclusive-or of the address bytes and the 128 data bytes (R75). -/
def checksum (hi lo : Byte) (d : Sector) : Byte := d.toList.foldl (fun acc x => acc ^^^ x) (hi ^^^ lo)

/-- A button byte on the wire: the complement of the input record's byte (R76). -/
def buttonWire (b : Byte) : Byte := ~~~b

/-- The analog pad's identifier byte in its present mode (R150). -/
def analogId (analogMode : Bool) : Byte := if analogMode then idAnalog else idDigital

end Sys2Proof.Machine
end

