-- ==== Sys2Proof/Machine/Flags.lean ====
section
/-! DEFINITION. The bits of CTRL that have a function (spec 10_state.md R26) and the STAT register as the view it is of the
three flags (R24, R39, R92). -/

namespace Sys2Proof.Machine

/-- CTRL bit 0: transfers are enabled (R26). -/
def ctrlTxen (c : Half) : Bool := c.getLsbD 0

/-- CTRL bit 1: a device is selected (R26). -/
def ctrlSelect (c : Half) : Bool := c.getLsbD 1

/-- Bit 4 of a value written to CTRL: acknowledge the interrupt (R26). -/
def ctrlIrqAck (v : Half) : Bool := v.getLsbD 4

/-- CTRL bit 12: an acknowledged exchange arms the interrupt (R26). -/
def ctrlAckIe (c : Half) : Bool := c.getLsbD 12

/-- CTRL bit 13: slot 1, which is empty (R26). -/
def ctrlSlot (c : Half) : Bool := c.getLsbD 13

/-- What a write of CTRL stores: every bit but bit 4 (R97 step 1). -/
def ctrlStored (v : Half) : Half := v &&& 0xFFEF#16

/-- The gate is closed, no device is on the line: SELECT off, or SLOT 1 (R111). -/
def gateClosed (c : Half) : Bool := !ctrlSelect c || ctrlSlot c

/-- The value of STAT for the three flags (R24, R92). -/
def statValue (rxPending ack irq : Bool) : Half :=
  0x0005#16 ||| (if rxPending then 0x0002#16 else 0#16) ||| (if ack then 0x0080#16 else 0#16)
    ||| (if irq then 0x0200#16 else 0#16)

/-- STAT as the state shows it (R24). -/
def State.stat (s : State) : Half := statValue s.rxPending s.ack s.irq

/-- The interrupt output pin: a level equal to `s.irq` (R205). -/
def State.irqPin (s : State) : Bool := s.irq

end Sys2Proof.Machine
end

