-- ==== Sys2Proof/Machine/Ops.lean ====
section
/-! DEFINITION. The shared operations: the parameters' values, one row of a device table, the three conditions (spec
60_exceptions.md R200), the bus engine's steps of an exchange (41_byte_exchange.md R111 to R116), the interrupt's arming,
counting, assertion and clearing (R115, R117, R205: the block takes no trap, R208), reset (R220), and the reply of a read. -/

namespace Sys2Proof.Machine

/-- `ACK_IRQ_DELAY`, an integer of at least 1 (R5). -/
def ackSteps (d : AckDelay) : Nat := d.beyondOne + 1

/-- The acknowledge policy: never true for a byte that was not accepted (R119). -/
def policyAcks (p : AckPolicy) (kind : DeviceKind) (before : Nat) (accepted : Bool) (after : Nat) : Bool :=
  accepted &&
    match p with
    | .default => after != 0
    | .every => true
    | .mouseSilent => kind != .mouse && after != 0
    | .table rows => rows.contains { kind := kind, before := before, after := after }

/-- The device a configured pad is (R34, R119). -/
def padDevice : PadKind → DeviceKind
  | .digital => .digital
  | .analog => .analog
  | .mouse => .mouse

/-- The three conditions (R200). They leave no trace but the idle byte, no acknowledge and `sel = None`. -/
inductive Condition where
  | noDevice
  | desync
  | cardFault
  deriving DecidableEq, Repr

/-- What a device table says of one byte: it is accepted, with a response and a next stage, or it is not, and the device
answers the idle byte and returns to stage 0 (R79, R121). An invalid stage rejects without a condition (R138, R189). -/
inductive Row where
  | accept (resp : Byte) (next : Nat)
  | reject (why : Option Condition)
  deriving DecidableEq, Repr

/-- The response of a row. -/
def Row.resp : Row → Byte
  | .accept r _ => r
  | .reject _ => Config.idle

/-- Whether the row accepts its byte. -/
def Row.accepted : Row → Bool
  | .accept _ _ => true
  | .reject _ => false

/-- The stage after the row. -/
def Row.next : Row → Nat
  | .accept _ n => n
  | .reject _ => 0

/-- The condition of a row. -/
def Row.condition : Row → Option Condition
  | .accept _ _ => none
  | .reject why => why

/-- `acked` of a row under a policy (R113, R119). -/
def Row.acked (r : Row) (p : AckPolicy) (kind : DeviceKind) (before : Nat) : Bool :=
  policyAcks p kind before r.accepted r.next

/-- What an exchange has come to after step 4 (R110): the state so far, `resp`, `acked`, and the condition if there is
one (a notion of the spec's text that no state keeps, R200). -/
structure Turn where
  st : State
  resp : Byte
  acked : Bool
  cond : Option Condition
  deriving DecidableEq, Repr

/-- No device answers: the idle byte, no acknowledge, the selection cleared (R111, R201). -/
def State.noDevice (s : State) : Turn :=
  { st := { s with sel := .none }, resp := Config.idle, acked := false, cond := some .noDevice }

/-- The device class an address byte resolves to (R112). -/
def resolve (b : Byte) : Selection :=
  if b = addrPadByte then .controller else if b = addrCardByte then .memoryCard else .none

/-- Step 2, the address phase: with no transaction in flight both stages and the card's command are zeroed and the byte
resolves the device (R112). -/
def State.addressPhase (s : State) (b : Byte) : State :=
  if s.sel = .none then
    { s with
      pad := { s.pad with stage := 0 }
      card := { s.card with stage := 0, cmd := .noCmd }
      sel := resolve b }
  else s

/-- Step 4, the end test: a device at stage 0 is done or has failed (R116). -/
def State.endTest (s : State) : State :=
  match s.sel with
  | .none => s
  | .controller => if s.pad.stage = 0 then { s with sel := .none } else s
  | .memoryCard => if s.card.stage = 0 then { s with sel := .none } else s

/-- Step 5, the latch (R114). -/
def State.latch (s : State) (resp : Byte) : State := { s with rxData := resp, rxPending := true }

/-- Loads the countdown of the interrupt, whatever it held (R115, R118). -/
def State.arm (s : State) : State := { s with irqTimer := ackSteps s.par.ackDelay }

/-- Step 6, acknowledge and arm (R115). -/
def State.acknowledge (s : State) (acked : Bool) : State :=
  if acked && ctrlAckIe s.ctrl then { s with ack := acked }.arm else { s with ack := acked }

/-- One clock cycle: count down while armed, and assert the interrupt on reaching 0 (R117). -/
def State.tick (s : State) : State :=
  if 0 < s.irqTimer then
    { s with irqTimer := s.irqTimer - 1, irq := if s.irqTimer - 1 = 0 then true else s.irq }
  else s

/-- `n` clock cycles at once (R117, log entry 15): `n` applications of `tick`. -/
def State.advance (s : State) (n : Nat) : State :=
  if s.irqTimer = 0 then s
  else if n < s.irqTimer then { s with irqTimer := s.irqTimer - n }
  else { s with irqTimer := 0, irq := true }

/-- Clears the interrupt output; a countdown goes on (R97, R230). -/
def State.clearIrq (s : State) : State := { s with irq := false }

/-- Ends the transaction in flight; no stage changes (R97). -/
def State.deselect (s : State) : State := { s with sel := .none }

/-- What a RESET event writes, and nothing else (R43, R220). -/
def State.resetEngine (s : State) : State :=
  { s with
    mode := 0x0000#16
    ctrl := 0x0000#16
    baud := 0x0000#16
    rxData := Config.idle
    rxPending := false
    ack := false
    irqTimer := 0
    irq := false
    sel := .none }

/-- The bus read answers `rdata` (R70, log entry 3). -/
def State.answer (s : State) (rdata : BusReply) : State := { s with reply := rdata }

/-- Replaces the pad by a fresh one of the given kind (R124). -/
def State.replacePad (s : State) (kind : PadKind) : State :=
  { s with
    padKind := kind
    pad := Pad.initial
    sel := if s.sel = .controller then .none else s.sel }

/-- Replaces the card by a fresh one over the same store (R125). -/
def State.replaceCard (s : State) : State :=
  { s with
    card := Card.initial
    sel := if s.sel = .memoryCard then .none else s.sel }

end Sys2Proof.Machine
end

