-- ==== Sys2Proof/Machine/Environment.lean ====
section
/-! DEFINITION. The events of the clock (spec 41_byte_exchange.md R117), the reset source (70_reset_and_hazards.md R220) and the
front-end (R123 to R125). -/

namespace Sys2Proof.Machine

/-- `STEP n`: `n` clock cycles (R117). -/
def execStep (n : Half) (s : State) : Host.Outcome State Fault Refusal := .next (s.advance n.toNat)

/-- `RESET` (R220). -/
def execReset (s : State) : Host.Outcome State Fault Refusal := .next s.resetEngine

/-- `SETIN BTN, v` (R123). -/
def execSetinBtn (btn0 btn1 : Byte) (s : State) : Host.Outcome State Fault Refusal :=
  .next { s with input := { s.input with btn0 := btn0, btn1 := btn1 } }

/-- `SETIN RX, v` (R123). -/
def execSetinRx (v : Byte) (s : State) : Host.Outcome State Fault Refusal :=
  .next { s with input := { s.input with rx := v } }

/-- `SETIN RY, v` (R123). -/
def execSetinRy (v : Byte) (s : State) : Host.Outcome State Fault Refusal :=
  .next { s with input := { s.input with ry := v } }

/-- `SETIN LX, v` (R123). -/
def execSetinLx (v : Byte) (s : State) : Host.Outcome State Fault Refusal :=
  .next { s with input := { s.input with lx := v } }

/-- `SETIN LY, v` (R123). -/
def execSetinLy (v : Byte) (s : State) : Host.Outcome State Fault Refusal :=
  .next { s with input := { s.input with ly := v } }

/-- `SETIN DX, v` (R123). -/
def execSetinDx (v : Byte) (s : State) : Host.Outcome State Fault Refusal :=
  .next { s with input := { s.input with dx := v } }

/-- `SETIN DY, v` (R123). -/
def execSetinDy (v : Byte) (s : State) : Host.Outcome State Fault Refusal :=
  .next { s with input := { s.input with dy := v } }

/-- `CONFIG DIGITAL` (R124). -/
def execConfigDigital (s : State) : Host.Outcome State Fault Refusal := .next (s.replacePad .digital)

/-- `CONFIG ANALOG` (R124). -/
def execConfigAnalog (s : State) : Host.Outcome State Fault Refusal := .next (s.replacePad .analog)

/-- `CONFIG MOUSE` (R124). -/
def execConfigMouse (s : State) : Host.Outcome State Fault Refusal := .next (s.replacePad .mouse)

/-- `CONFIG CARD` (R125). -/
def execConfigCard (s : State) : Host.Outcome State Fault Refusal := .next s.replaceCard

end Sys2Proof.Machine
end

