-- ==== Sys2Proof/Machine/Analog.lean ====
section
/-! DEFINITION. The analog pad (spec 43_device_pads.md R150 to R162). -/

namespace Sys2Proof.Machine

/-- The analog pad's table (R150): the poll's stages 0 to 8, the mode switch's stage 9, and the invalid stages (R162). -/
def analogRow (pad : Pad) (inp : Input) (b : Byte) : Row :=
  match pad.stage with
  | 0 => if b = addrPadByte then .accept Config.idle 1 else .reject (some .desync)
  | 1 =>
    if b = padPollByte then .accept (analogId pad.analogMode) 2
    else if b = padModeByte then .accept (analogId pad.analogMode) 9
    else .reject (some .desync)
  | 2 => .accept idHi 3
  | 3 => .accept (buttonWire inp.btn0) 4
  | 4 => if pad.analogMode then .accept (buttonWire inp.btn1) 5 else .accept (buttonWire inp.btn1) 0
  | 5 => .accept inp.rx 6
  | 6 => .accept inp.ry 7
  | 7 => .accept inp.lx 8
  | 8 => .accept inp.ly 0
  | 9 => .accept idHi 0
  | _ => .reject none

/-- The mode after a byte: stage 9 toggles it, no other stage writes it (R161). -/
def analogModeAfter (pad : Pad) : Bool := if pad.stage = 9 then !pad.analogMode else pad.analogMode

/-- `handle_analog` (R9, R150). -/
def handleAnalog (p : AckPolicy) (pad : Pad) (inp : Input) (b : Byte) : Byte × Bool × Pad :=
  let r := analogRow pad inp b
  (r.resp, r.acked p .analog pad.stage, { stage := r.next, analogMode := analogModeAfter pad })

end Sys2Proof.Machine
end

