-- ==== Sys2Proof/Machine/Digital.lean ====
section
/-! DEFINITION. The digital pad (spec 43_device_pads.md R140 to R146). -/

namespace Sys2Proof.Machine

/-- The digital pad's table (R140): stages 0 to 4, and the invalid stages (R146). -/
def digitalRow (stage : Nat) (inp : Input) (b : Byte) : Row :=
  match stage with
  | 0 => if b = addrPadByte then .accept Config.idle 1 else .reject (some .desync)
  | 1 => if b = padPollByte then .accept idDigital 2 else .reject (some .desync)
  | 2 => .accept idHi 3
  | 3 => .accept (buttonWire inp.btn0) 4
  | 4 => .accept (buttonWire inp.btn1) 0
  | _ => .reject none

/-- `handle_digital` (R9, R140): only the stage is written. -/
def handleDigital (p : AckPolicy) (pad : Pad) (inp : Input) (b : Byte) : Byte × Bool × Pad :=
  let r := digitalRow pad.stage inp b
  (r.resp, r.acked p .digital pad.stage, { pad with stage := r.next })

end Sys2Proof.Machine
end

