-- ==== Sys2Proof/Machine/MemoryCard.lean ====
section
/-! DEFINITION. The memory card (spec 44_device_memory_card.md R170 to R190). -/

namespace Sys2Proof.Machine

/-- The sector address the card holds (R74, R170). -/
def Card.addr (c : Card) : Nat := sectorIndex c.addrHi c.addrLo

/-- The checksum of the sector the card holds (R75, R170). -/
def Card.chk (c : Card) : Byte := checksum c.addrHi c.addrLo c.buf

/-- `card_idle` (R190). -/
def Card.idle (c : Card) : Card := { c with stage := 0, cmd := .noCmd }

/-- The FLAG byte (R172). -/
def Card.flag (c : Card) : Byte := if c.fresh then cardFlagFresh else cardFlagUsed

/-- Byte `i` of the buffer; only positions 0 to 127 exist (R36). -/
def Card.bufAt (c : Card) (i : Nat) : Byte := (c.buf[i]?).getD 0x00#8

/-- The card with byte `i` of the buffer staged (R184). -/
def Card.staged (c : Card) (i : Nat) (b : Byte) : Card := { c with buf := c.buf.setIfInBounds i b }

/-- What one byte does to the card: the row of its table, the card with every field but the stage written, the store. -/
structure CardTurn where
  row : Row
  card : Card
  store : Memory
  deriving DecidableEq, Repr

/-- Stage 1, the command phase (R172). -/
def cardCommand (c : Card) (m : Memory) (b : Byte) : CardTurn :=
  if b = cardReadByte then { row := .accept c.flag 2, card := { c with cmd := .read }, store := m }
  else if b = cardWriteByte then { row := .accept c.flag 2, card := { c with cmd := .write }, store := m }
  else { row := .reject (some .desync), card := c, store := m }

/-- Stage 5, the address low byte and the range check; a read fetches its sector now (R176). -/
def cardAddressLow (c : Card) (m : Memory) (b : Byte) : Except Refusal CardTurn :=
  let c' := { c with addrLo := b }
  if c'.addr < cardSectors then
    if c.cmd = .read then
      match m.readSector c'.addr with
      | some d => .ok { row := .accept c.addrHi 6, card := { c' with buf := d }, store := m }
      | none => .error (.sectorOutOfRange c'.addr)
    else .ok { row := .accept c.addrHi 6, card := c', store := m }
  else .ok { row := .reject (some .cardFault), card := c', store := m }

/-- Stages 6 to 139 of a read (R177 to R183). -/
def cardReadRow (c : Card) : Row :=
  if c.stage = 6 then .accept cardAck1 7
  else if c.stage = 7 then .accept cardAck2 8
  else if c.stage = 8 then .accept c.addrHi 9
  else if c.stage = 9 then .accept c.addrLo 10
  else if 10 ≤ c.stage ∧ c.stage ≤ 137 then .accept (c.bufAt (c.stage - 10)) (c.stage + 1)
  else if c.stage = 138 then .accept c.chk 139
  else if c.stage = 139 then .accept cardGood 0
  else .reject none

/-- The byte a data byte of a write is answered with: the previous byte received (R184). -/
def Card.echo (c : Card) (i : Nat) : Byte := if i = 0 then c.addrLo else c.bufAt (i - 1)

/-- Stage 134 of a write: checksum and commit (R185). -/
def cardCommit (c : Card) (m : Memory) (b : Byte) : Except Refusal CardTurn :=
  if b = c.chk then
    match m.writeSector c.addr c.buf with
    | some m' => .ok { row := .accept (c.bufAt 127) 135, card := { c with fresh := false }, store := m' }
    | none => .error (.sectorOutOfRange c.addr)
  else .ok { row := .reject (some .cardFault), card := c, store := m }

/-- Stages 6 to 137 of a write (R184 to R188). -/
def cardWriteTurn (c : Card) (m : Memory) (b : Byte) : Except Refusal CardTurn :=
  if 6 ≤ c.stage ∧ c.stage ≤ 133 then
    .ok { row := .accept (c.echo (c.stage - 6)) (c.stage + 1), card := c.staged (c.stage - 6) b, store := m }
  else if c.stage = 134 then cardCommit c m b
  else if c.stage = 135 then .ok { row := .accept cardAck1 136, card := c, store := m }
  else if c.stage = 136 then .ok { row := .accept cardAck2 137, card := c, store := m }
  else if c.stage = 137 then .ok { row := .accept cardGood 0, card := c, store := m }
  else .ok { row := .reject none, card := c, store := m }

/-- The card's tables (R170): stages 0 and 1 before a command is known, stages 2 to 5 of both sequences, then the sequence
of the command; what matches no row is an invalid stage (R189). -/
def cardTurn (c : Card) (m : Memory) (b : Byte) : Except Refusal CardTurn :=
  match c.stage with
  | 0 =>
    .ok { row := if b = addrCardByte then .accept Config.idle 1 else .reject (some .desync), card := c, store := m }
  | 1 => .ok (cardCommand c m b)
  | _ =>
    if c.cmd = .noCmd then .ok { row := .reject none, card := c, store := m }
    else
      match c.stage with
      | 2 => .ok { row := .accept cardId1 3, card := c, store := m }
      | 3 => .ok { row := .accept cardId2 4, card := c, store := m }
      | 4 => .ok { row := .accept cardAddrAnswer 5, card := { c with addrHi := b }, store := m }
      | 5 => cardAddressLow c m b
      | _ => if c.cmd = .read then .ok { row := cardReadRow c, card := c, store := m } else cardWriteTurn c m b

/-- The card after its turn: the next stage, through `card_idle` where a sequence ended or failed (R183, R188, R190); a
stage-0 mismatch stays at stage 0 and writes nothing else (R171). -/
def CardTurn.after (t : CardTurn) (before : Nat) : Card :=
  if t.row.next = 0 ∧ before ≠ 0 then t.card.idle else { t.card with stage := t.row.next }

/-- `handle_card` (R9, R170): refused only where the store would be asked for a sector it does not have (U13). -/
def handleCard (p : AckPolicy) (c : Card) (m : Memory) (b : Byte) : Except Refusal (Byte × Bool × Card × Memory) :=
  match cardTurn c m b with
  | .ok t => .ok (t.row.resp, t.row.acked p .card c.stage, t.after c.stage, t.store)
  | .error r => .error r

end Sys2Proof.Machine
end

