-- ==== Sys2Proof/Machine/Mouse.lean ====
section
/-! DEFINITION. The mouse (spec 42_device_mouse.md R130 to R138). -/

namespace Sys2Proof.Machine

/-- The mouse's table (R130): stages 0 to 6, and the invalid stages (R138). -/
def mouseRow (stage : Nat) (inp : Input) (b : Byte) : Row :=
  match stage with
  | 0 => if b = addrPadByte then .accept Config.idle 1 else .reject (some .desync)
  | 1 => if b = padPollByte then .accept idMouse 2 else .reject (some .desync)
  | 2 => .accept idHi 3
  | 3 => .accept (buttonWire inp.btn0) 4
  | 4 => .accept (buttonWire inp.btn1) 5
  | 5 => .accept inp.dx 6
  | 6 => .accept inp.dy 0
  | _ => .reject none

/-- `handle_mouse` (R9, R130): the response, `acked`, and the pad after; only the stage is written. -/
def handleMouse (p : AckPolicy) (pad : Pad) (inp : Input) (b : Byte) : Byte × Bool × Pad :=
  let r := mouseRow pad.stage inp b
  (r.resp, r.acked p .mouse pad.stage, { pad with stage := r.next })

end Sys2Proof.Machine
end

