-- ==== Sys2Proof/Machine/Exchange.lean ====
section
/-! DEFINITION. `handleByte`, the byte exchange (spec 41_byte_exchange.md R110 to R116), and the DATA write that runs it
(40_register_access.md R91). -/

namespace Sys2Proof.Machine

/-- The row of the configured pad's table (R113). -/
def padRow (kind : PadKind) (pad : Pad) (inp : Input) (b : Byte) : Row :=
  match kind with
  | .mouse => mouseRow pad.stage inp b
  | .digital => digitalRow pad.stage inp b
  | .analog => analogRow pad inp b

/-- The configured pad's handler (R113). -/
def handlePad (p : AckPolicy) (kind : PadKind) (pad : Pad) (inp : Input) (b : Byte) : Byte × Bool × Pad :=
  match kind with
  | .mouse => handleMouse p pad inp b
  | .digital => handleDigital p pad inp b
  | .analog => handleAnalog p pad inp b

/-- The condition a card's byte meets, if any (R200). -/
def cardCondition (c : Card) (m : Memory) (b : Byte) : Option Condition :=
  match cardTurn c m b with
  | .ok t => t.row.condition
  | .error _ => none

/-- Step 3 with the pad addressed (R113). -/
def State.padTurn (s : State) (b : Byte) : Turn :=
  let r := handlePad s.par.ackPolicy s.padKind s.pad s.input b
  { st := { s with pad := r.2.2 }
    resp := r.1
    acked := r.2.1
    cond := (padRow s.padKind s.pad s.input b).condition }

/-- Step 3 with the card addressed (R113). -/
def State.cardTurn (s : State) (b : Byte) : Except Refusal Turn :=
  match handleCard s.par.ackPolicy s.card s.store b with
  | .ok r =>
    .ok
      { st := { s with card := r.2.2.1, store := r.2.2.2 }
        resp := r.1
        acked := r.2.1
        cond := cardCondition s.card s.store b }
  | .error r => .error r

/-- Step 3: the byte goes to the one device `sel` names; with none, no device answers (R112, R113). -/
def State.deviceTurn (s : State) (b : Byte) : Except Refusal Turn :=
  match s.sel with
  | .none => .ok s.noDevice
  | .controller => .ok (s.padTurn b)
  | .memoryCard => s.cardTurn b

/-- Steps 1 to 3: the gate, the address phase, the device (R110 to R113). -/
def State.exchange (s : State) (b : Byte) : Except Refusal Turn :=
  if gateClosed s.ctrl then .ok s.noDevice else (s.addressPhase b).deviceTurn b

/-- Steps 4 to 6 (R114 to R116). -/
def Turn.finish (t : Turn) : State := (t.st.endTest.latch t.resp).acknowledge t.acked

/-- `handleByte(b)` (R110). -/
def State.handleByte (s : State) (b : Byte) : Host.Outcome State Fault Refusal :=
  match s.exchange b with
  | .ok t => .next t.finish
  | .error r => .refused r

/-- The condition the exchange of a byte meets, if any (R200, R207); no state keeps it. -/
def State.exchangeCondition (s : State) (b : Byte) : Option Condition :=
  match s.exchange b with
  | .ok t => t.cond
  | .error _ => none

/-- A byte is written to DATA: an exchange with TXEN 1, nothing at all with TXEN 0 (R91). -/
def State.transmit (s : State) (b : Byte) : Host.Outcome State Fault Refusal :=
  if ctrlTxen s.ctrl then s.handleByte b else .next s

end Sys2Proof.Machine
end

