-- ==== Sys2Proof/Machine/RegisterAccess.lean ====
section
/-! DEFINITION. The ten register accesses (spec 40_register_access.md R90 to R99). -/

namespace Sys2Proof.Machine

/-- `RD DATA` (R90): destructive. -/
def execRdData (s : State) : Host.Outcome State Fault Refusal :=
  .next ({ s with rxData := Config.idle, rxPending := false }.answer (.byte s.rxData))

/-- `WR DATA, b` (R91). -/
def execWrData (b : Byte) (s : State) : Host.Outcome State Fault Refusal := s.transmit b

/-- `RD STAT` (R92). -/
def execRdStat (s : State) : Host.Outcome State Fault Refusal := .next (s.answer (.half s.stat))

/-- `WR STAT, v` (R93): accepted, no effect. -/
def execWrStat (_v : Half) (s : State) : Host.Outcome State Fault Refusal := .next s

/-- `RD MODE` (R94). -/
def execRdMode (s : State) : Host.Outcome State Fault Refusal := .next (s.answer (.half s.mode))

/-- `WR MODE, v` (R95). -/
def execWrMode (v : Half) (s : State) : Host.Outcome State Fault Refusal := .next { s with mode := v }

/-- `RD CTRL` (R96). -/
def execRdCtrl (s : State) : Host.Outcome State Fault Refusal := .next (s.answer (.half s.ctrl))

/-- `WR CTRL, v` (R97): stores every bit but bit 4, then IRQACK, then SELECT off. -/
def execWrCtrl (v : Half) (s : State) : Host.Outcome State Fault Refusal :=
  let s1 := { s with ctrl := ctrlStored v }
  let s2 := if ctrlIrqAck v then s1.clearIrq else s1
  let s3 := if ctrlSelect v then s2 else s2.deselect
  .next s3

/-- `RD BAUD` (R98). -/
def execRdBaud (s : State) : Host.Outcome State Fault Refusal := .next (s.answer (.half s.baud))

/-- `WR BAUD, v` (R99). -/
def execWrBaud (v : Half) (s : State) : Host.Outcome State Fault Refusal := .next { s with baud := v }

end Sys2Proof.Machine
end

