-- ==== Sys2Proof/Machine/Serial.lean ====
section
/-! DEFINITION. The six serial bytes of the opcode table (spec 30_encoding.md R72). A byte from the bus master is on the channel
only inside a DATA write (R50, R91), so each is the DATA write of its byte (log entry 11); what the byte selects depends on
`sel` and the addressed device's stage, as the exchange works it out (R72, R79, R113). -/

namespace Sys2Proof.Machine

/-- `ADDR_PAD`, byte `0x01` (R112). -/
def execAddrPad (s : State) : Host.Outcome State Fault Refusal := s.transmit addrPadByte

/-- `ADDR_CARD`, byte `0x81` (R112). -/
def execAddrCard (s : State) : Host.Outcome State Fault Refusal := s.transmit addrCardByte

/-- `PAD_POLL`, byte `0x42` (R132, R142, R152). -/
def execPadPoll (s : State) : Host.Outcome State Fault Refusal := s.transmit padPollByte

/-- `PAD_MODE`, byte `0x44` (R153). -/
def execPadMode (s : State) : Host.Outcome State Fault Refusal := s.transmit padModeByte

/-- `CARD_READ`, byte `0x52` (R172). -/
def execCardRead (s : State) : Host.Outcome State Fault Refusal := s.transmit cardReadByte

/-- `CARD_WRITE`, byte `0x57` (R172). -/
def execCardWrite (s : State) : Host.Outcome State Fault Refusal := s.transmit cardWriteByte

end Sys2Proof.Machine
end

