-- ==== Sys2Proof/Machine/Dispatch.lean ====
section
/-! DEFINITION. One arm per instruction, each one call of its meaning. -/

namespace Sys2Proof.Machine

def exec (i : Instr) (s : State) : Host.Outcome State Fault Refusal :=
  match i with
  | .rdData => Sys2Proof.Machine.execRdData s
  | .wrData b => Sys2Proof.Machine.execWrData b s
  | .rdStat => Sys2Proof.Machine.execRdStat s
  | .wrStat v => Sys2Proof.Machine.execWrStat v s
  | .rdMode => Sys2Proof.Machine.execRdMode s
  | .wrMode v => Sys2Proof.Machine.execWrMode v s
  | .rdCtrl => Sys2Proof.Machine.execRdCtrl s
  | .wrCtrl v => Sys2Proof.Machine.execWrCtrl v s
  | .rdBaud => Sys2Proof.Machine.execRdBaud s
  | .wrBaud v => Sys2Proof.Machine.execWrBaud v s
  | .step n => Sys2Proof.Machine.execStep n s
  | .reset => Sys2Proof.Machine.execReset s
  | .setinBtn btn0 btn1 => Sys2Proof.Machine.execSetinBtn btn0 btn1 s
  | .setinRx v => Sys2Proof.Machine.execSetinRx v s
  | .setinRy v => Sys2Proof.Machine.execSetinRy v s
  | .setinLx v => Sys2Proof.Machine.execSetinLx v s
  | .setinLy v => Sys2Proof.Machine.execSetinLy v s
  | .setinDx v => Sys2Proof.Machine.execSetinDx v s
  | .setinDy v => Sys2Proof.Machine.execSetinDy v s
  | .configDigital => Sys2Proof.Machine.execConfigDigital s
  | .configAnalog => Sys2Proof.Machine.execConfigAnalog s
  | .configMouse => Sys2Proof.Machine.execConfigMouse s
  | .configCard => Sys2Proof.Machine.execConfigCard s
  | .addrPad => Sys2Proof.Machine.execAddrPad s
  | .addrCard => Sys2Proof.Machine.execAddrCard s
  | .padPoll => Sys2Proof.Machine.execPadPoll s
  | .padMode => Sys2Proof.Machine.execPadMode s
  | .cardRead => Sys2Proof.Machine.execCardRead s
  | .cardWrite => Sys2Proof.Machine.execCardWrite s

end Sys2Proof.Machine
end

