-- ==== Sys2Proof/Machine/Step.lean ====
section
/-! DEFINITION. One step: the next of the environment's events is decoded and applied (spec 00_scope.md R2, 20_memory.md R56). -/

namespace Sys2Proof.Machine

/-- One step. With no event waiting the block does nothing (R2, R222; log entry 2); a stimulus the spec gives no meaning is
refused (R52, R71). -/
def step (s : State) : Host.Outcome State Fault Refusal :=
  match s.pending with
  | [] => .next s
  | e :: rest =>
    match decode e with
    | .ok i => exec i { s with pending := rest }
    | .error why => .refused (.undefinedStimulus why)

/-- The state with the given row's bits as the next event (log entry 1). -/
def State.withFetchWord (s : State) (nbits w : Nat) : State :=
  { s with pending := stimulusOfBits nbits w :: s.pending }

end Sys2Proof.Machine
end

