-- ==== Sys2Proof/Machine/Pseudo.lean ====
section
/-! DEFINITION. The pseudo-operations of the spec's test notation, as the lists of events they stand for (spec 30_encoding.md
R82), and the composite CTRL values of R77. -/

namespace Sys2Proof.Machine

/-- `XCHG b`: one exchange and the read of its response. -/
def xchg (b : Byte) : List Instr := [.wrData b, .rdData]

/-- `REPEAT k`: the lines written out `k` times, the repetition index handed to each. -/
def repeatLines (k : Nat) (lines : Nat → List Instr) : List Instr := (List.range k).flatMap lines

/-- `IRQCLR` with the current CTRL value. -/
def irqClr (c : Half) : List Instr := [.wrCtrl (c ||| 0x0010#16)]

/-- `DESELECT` with the current CTRL value. -/
def deselectLine (c : Half) : List Instr := [.wrCtrl (c &&& 0xFFFD#16)]

/-- `SELECT` with the current CTRL value. -/
def selectLine (c : Half) : List Instr := [.wrCtrl (c ||| 0x0002#16)]

/-- A list of events as the environment hands them over. -/
def program (is : List Instr) : List Stimulus := is.map encode

end Sys2Proof.Machine
end

