-- ==== Sys2Proof/Safety.lean ====
section
/-! DEFINITION. What a good state is (the invariants of spec 10_state.md R41 and R42, with what the card's and the pad's tables
imply), and the terms the statements are written in. -/

namespace Sys2Proof.Machine

/-- The last stage of a pad's sequences (R35, R41 (c)). -/
def padTopStage : PadKind → Nat
  | .digital => 4
  | .analog => 9
  | .mouse => 6

/-- What holds in every state a run reaches. -/
structure State.Inv (s : State) : Prop where
  /-- R42 (e). -/
  ctrl_irqack_zero : s.ctrl.getLsbD 4 = false
  /-- R31. -/
  timer_bounded : s.irqTimer ≤ ackSteps s.par.ackDelay
  /-- R41 (c). -/
  pad_stage_legal : s.pad.stage ≤ padTopStage s.padKind
  /-- R162: the axis stages are reached only in analog mode. -/
  axes_need_mode : s.padKind = .analog → 5 ≤ s.pad.stage → s.pad.stage ≤ 8 → s.pad.analogMode = true
  /-- R35: only the analog pad has a mode. -/
  mode_only_analog : s.padKind ≠ .analog → s.pad.analogMode = false
  /-- R41 (c). -/
  card_stage_legal : s.card.stage ≤ 139
  /-- R42 (h). -/
  card_idle_no_command : s.card.stage ≤ 1 → s.card.cmd = .noCmd
  /-- R189: a stage from 2 up has a command. -/
  card_busy_command : 2 ≤ s.card.stage → s.card.cmd ≠ .noCmd
  /-- R189: a write ends at stage 137. -/
  card_write_short : s.card.cmd = .write → s.card.stage ≤ 137
  /-- R176: past stage 5 the address is in range. -/
  card_address_valid : 6 ≤ s.card.stage → s.card.addr < cardSectors
  /-- R42 (f). -/
  selected_pad_busy : s.sel = .controller → s.pad.stage ≠ 0
  /-- R42 (f). -/
  selected_card_busy : s.sel = .memoryCard → s.card.stage ≠ 0
  /-- The store keeps its canonical form. -/
  store_wf : s.store.wf = true

/-- The next event, if there is one, is a stimulus the spec gives a meaning. -/
def State.nextDefined (s : State) : Bool :=
  match s.pending with
  | [] => true
  | e :: _ => e.wellFormed

/-- CTRL lets a byte reach a device: TXEN, SELECT, slot 0 (R91, R111). -/
def lineOpen (c : Half) : Bool := ctrlTxen c && !gateClosed c

/-- The byte an instruction puts on the serial channel, if it is one that does. -/
def serialByteOf : Instr → Option Byte
  | .rdData => none
  | .wrData b => some b
  | .rdStat => none
  | .wrStat _ => none
  | .rdMode => none
  | .wrMode _ => none
  | .rdCtrl => none
  | .wrCtrl _ => none
  | .rdBaud => none
  | .wrBaud _ => none
  | .step _ => none
  | .reset => none
  | .setinBtn _ _ => none
  | .setinRx _ => none
  | .setinRy _ => none
  | .setinLx _ => none
  | .setinLy _ => none
  | .setinDx _ => none
  | .setinDy _ => none
  | .configDigital => none
  | .configAnalog => none
  | .configMouse => none
  | .configCard => none
  | .addrPad => some 0x01#8
  | .addrCard => some 0x81#8
  | .padPoll => some 0x42#8
  | .padMode => some 0x44#8
  | .cardRead => some 0x52#8
  | .cardWrite => some 0x57#8

/-- A state with the latch, the acknowledge flag and the countdown as an exchange with this outcome leaves them (R114,
R115). -/
def State.answered (s : State) (resp : Byte) (acked : Bool) : State :=
  { s with
    rxData := resp
    rxPending := true
    ack := acked
    irqTimer := if acked && ctrlAckIe s.ctrl then ackSteps s.par.ackDelay else s.irqTimer }

/-- An exchange in which the addressed pad goes to stage `next` with mode `mode`: the transaction ends at stage 0 (R113 to
R116). -/
def State.padAnswered (s : State) (accepted : Bool) (resp : Byte) (next : Nat) (mode : Bool) : State :=
  State.answered
    { s with pad := { stage := next, analogMode := mode }, sel := if next = 0 then .none else .controller }
    resp (policyAcks s.par.ackPolicy (padDevice s.padKind) s.pad.stage accepted next)

/-- An exchange after which the addressed card is `c` (R113 to R116). -/
def State.cardAnswered (s : State) (accepted : Bool) (resp : Byte) (c : Card) : State :=
  State.answered
    { s with card := c, sel := if c.stage = 0 then .none else .memoryCard }
    resp (policyAcks s.par.ackPolicy .card s.card.stage accepted c.stage)

/-- The run of a list of instructions in which no byte is exchanged, if it is one: every instruction answers, and none puts a
byte on the channel while transfers are enabled (R91, R100). -/
def State.runQuiet (s : State) : List Instr → Option State
  | [] => some s
  | i :: is =>
    if (serialByteOf i).isSome && ctrlTxen s.ctrl then none
    else
      match exec i s with
      | .next t => State.runQuiet t is
      | _ => none

/-- How many clock steps an instruction lets the countdown take, if it leaves the countdown and `irq` alone otherwise: none for
a DATA write, an acknowledging CTRL write and reset (R120). -/
def countdownSteps : Instr → Option Nat
  | .rdData => some 0
  | .wrData _ => none
  | .rdStat => some 0
  | .wrStat _ => some 0
  | .rdMode => some 0
  | .wrMode _ => some 0
  | .rdCtrl => some 0
  | .wrCtrl v => if ctrlIrqAck v then none else some 0
  | .rdBaud => some 0
  | .wrBaud _ => some 0
  | .step n => some n.toNat
  | .reset => none
  | .setinBtn _ _ => some 0
  | .setinRx _ => some 0
  | .setinRy _ => some 0
  | .setinLx _ => some 0
  | .setinLy _ => some 0
  | .setinDx _ => some 0
  | .setinDy _ => some 0
  | .configDigital => some 0
  | .configAnalog => some 0
  | .configMouse => some 0
  | .configCard => some 0
  | .addrPad => none
  | .addrCard => none
  | .padPoll => none
  | .padMode => none
  | .cardRead => none
  | .cardWrite => none

/-- The run of a list of such instructions, with the number of clock steps in it. -/
def State.runCounting (s : State) : List Instr → Option (State × Nat)
  | [] => some (s, 0)
  | i :: is =>
    match countdownSteps i, exec i s with
    | some n, .next t =>
      match State.runCounting t is with
      | some (u, m) => some (u, n + m)
      | none => none
    | _, _ => none

/-- Sends bytes by DATA writes one after the other and collects the response of each exchange from the latch: `WR DATA` then
the read of its response (R58 (a), R82 `XCHG`), without emptying the latch in between. -/
def State.sendBytes (s : State) : List Byte → Option (State × List Byte)
  | [] => some (s, [])
  | b :: bs =>
    match exec (.wrData b) s with
    | .next t =>
      match State.sendBytes t bs with
      | some (u, rs) => some (u, t.rxData :: rs)
      | none => none
    | _ => none

/-- The high byte of a sector address (R74). -/
def addressHigh (k : Nat) : Byte := BitVec.ofNat 8 (k / 256)

/-- The low byte of a sector address (R74). -/
def addressLow (k : Nat) : Byte := BitVec.ofNat 8 k

/-- The bytes of a write transaction up to its data: address, command, four header bytes (R170). -/
def writeHeader (k : Nat) : List Byte := [0x81#8, 0x57#8, 0x00#8, 0x00#8, addressHigh k, addressLow k]

/-- The bytes of a whole write transaction with a given checksum byte (R170, R193). -/
def writeTransaction (k : Nat) (d : Sector) (chk : Byte) : List Byte :=
  writeHeader k ++ d.toList ++ [chk, 0x00#8, 0x00#8, 0x00#8]

/-- The bytes of a whole read transaction (R170, R193). -/
def readTransaction (k : Nat) : List Byte :=
  [0x81#8, 0x52#8, 0x00#8, 0x00#8, addressHigh k, addressLow k] ++ List.replicate 134 0x00#8

/-- The responses to a whole read transaction of a sector holding `d` (R170). -/
def readResponses (flag : Byte) (k : Nat) (d : Sector) : List Byte :=
  [0xFF#8, flag, 0x5A#8, 0x5D#8, 0x00#8, addressHigh k, 0x5C#8, 0x5D#8, addressHigh k, addressLow k] ++ d.toList
    ++ [checksum (addressHigh k) (addressLow k) d, 0x47#8]

end Sys2Proof.Machine
end

