-- ==== Sys2Proof/Certificates/Slice0/Obligations.lean ====
section
/-! DEFINITION. The statements about the model. Where a statement speaks of "an instruction that carries the byte b", it is
`WR_DATA b` or the serial row of that byte (log entry 11). `answered`, `padAnswered` and `cardAnswered` (Safety.lean) are
whole records: every field they do not name is the field of the state before. -/

open Sys2Proof Sys2Proof.Machine

/-! ## Encoding -/

/-- Every instruction, with every operand, is what the decoder reads from its encoding (R71, R72). -/
def Obligations.DecodeOfEncode : Prop := ∀ i : Instr, decode (encode i) = .ok i

/-- A word that decodes is the encoding of what it decodes to: no event has two words (R71). -/
def Obligations.DecodedWordIsItsEncoding : Prop := ∀ w i, decodeWord w = some i → encode i = .word w

/-- The decoder accepts a stimulus exactly when it is well formed by the opcode table and the register widths (R52, R71, R83),
rejects every other one by name, and reads from a word the instruction whose row covers it. -/
def Obligations.DecoderAcceptsExactlyTheTable : Prop :=
  (∀ e : Stimulus, (∃ i, decode e = .ok i) ↔ e.wellFormed = true) ∧
  (∀ w, wordWellFormed w = false → decode (.word w) = .error (.undefinedWord w)) ∧
  (∀ a : BusAccess, a.wellFormed = false → decode (.access a) = .error (.undefinedAccess a)) ∧
  (∀ w i, decodeWord w = some i → ∃ r ∈ stimulusRows, r.mnemonic = mnemonic i ∧ r.covers w = true)

/-- The ten accesses of the register interface, each written out, are all there are (R52, R70); every other one is refused and
answers nothing (R52, R54, R78). -/
def Obligations.BusAccessIsOneOfTen : Prop :=
  (∀ (a : BusAccess) (i : Instr), decode (.access a) = .ok i ↔
    (a = .read 0x0#4 1 ∧ i = .rdData) ∨ (∃ b : Byte, a = .write 0x0#4 [b] ∧ i = .wrData b) ∨
    (a = .read 0x4#4 2 ∧ i = .rdStat) ∨ (∃ hi lo : Byte, a = .write 0x4#4 [lo, hi] ∧ i = .wrStat (hi ++ lo)) ∨
    (a = .read 0x8#4 2 ∧ i = .rdMode) ∨ (∃ hi lo : Byte, a = .write 0x8#4 [lo, hi] ∧ i = .wrMode (hi ++ lo)) ∨
    (a = .read 0xA#4 2 ∧ i = .rdCtrl) ∨ (∃ hi lo : Byte, a = .write 0xA#4 [lo, hi] ∧ i = .wrCtrl (hi ++ lo)) ∨
    (a = .read 0xE#4 2 ∧ i = .rdBaud) ∨ (∃ hi lo : Byte, a = .write 0xE#4 [lo, hi] ∧ i = .wrBaud (hi ++ lo))) ∧
  (∀ (s : State) (a : BusAccess) (rest : List Stimulus), s.pending = .access a :: rest →
    (∀ i, decode (.access a) ≠ .ok i) → step s = .refused (.undefinedStimulus (.undefinedAccess a)))

/-- A few of the words of 95_test_vectors.md Part 3 and of R71, written out, decode to what the spec says they are. -/
def Obligations.TableWordsDecode : Prop :=
  decodeTableWord 32 0x00000000 = some .rdData ∧
  decodeTableWord 32 0x100000EE = some (.wrData 0xEE#8) ∧
  decodeTableWord 32 0x1A001013 = some (.wrCtrl 0x1013#16) ∧
  decodeTableWord 32 0x0E000000 = some .rdBaud ∧
  decodeTableWord 32 0x20000004 = some (.step 4#16) ∧
  decodeTableWord 32 0x30000000 = some .reset ∧
  decodeTableWord 32 0x40004009 = some (.setinBtn 0x09#8 0x40#8) ∧
  decodeTableWord 32 0x460000FE = some (.setinDy 0xFE#8) ∧
  decodeTableWord 32 0x50000002 = some .configMouse ∧
  decodeTableWord 32 0x51000000 = some .configCard ∧
  decodeTableWord 8 0x57 = some .cardWrite ∧
  decodeTableWord 32 0x50000003 = none ∧
  decodeTableWord 32 0x10000100 = none ∧
  decodeTableWord 32 0x02000000 = none

/-! ## Reset -/

/-- The start of a run (R222): the reset values, a fresh pad of kind `PAD_KIND0`, a fresh card, the store holding
`CARD_IMAGE`; STAT reads `0x0005` (R43). That a step with no event waiting answers this same state, and does not refuse,
is the model's choice (log entry 2). -/
def Obligations.PowerOnState : Prop :=
  State.reset.mode = 0#16 ∧ State.reset.ctrl = 0#16 ∧ State.reset.baud = 0#16 ∧
  State.reset.rxData = 0xFF#8 ∧ State.reset.rxPending = false ∧ State.reset.ack = false ∧
  State.reset.irqTimer = 0 ∧ State.reset.irq = false ∧ State.reset.sel = .none ∧
  State.reset.padKind = Config.padKind0 ∧ State.reset.pad.stage = 0 ∧ State.reset.pad.analogMode = false ∧
  State.reset.card.stage = 0 ∧ State.reset.card.cmd = .noCmd ∧
  State.reset.card.addrHi = 0#8 ∧ State.reset.card.addrLo = 0#8 ∧
  (∀ (n : Nat) (h : n < 128), State.reset.card.buf[n] = 0#8) ∧ State.reset.card.fresh = true ∧
  (∀ k n, k < 1024 → n < 128 → State.reset.store.read (128 * k + n) = Config.cardImage k n) ∧
  step State.reset = .next State.reset ∧ State.reset.stat = 0x0005#16

/-- A RESET event writes exactly the bus engine's fields and leaves everything else (R43, R220, R221). -/
def Obligations.ResetEventWritesExactly : Prop :=
  decode (.word 0x30000000#32) = .ok .reset ∧
  ∀ s : State, exec .reset s = .next
    { s with
      mode := 0x0000#16, ctrl := 0x0000#16, baud := 0x0000#16, rxData := 0xFF#8, rxPending := false
      ack := false, irqTimer := 0, irq := false, sel := .none }

/-! ## Invariants and the step -/

/-- The invariant holds at the start of a run, whatever events are waiting (R41, R42). -/
def Obligations.PowerOnSatisfiesInvariant : Prop :=
  ∀ events : List Stimulus, ({ State.reset with pending := events } : State).Inv

/-- Every step keeps the invariant, from every state that has it (R41, R42). -/
def Obligations.StepKeepsInvariant : Prop := ∀ s t : State, s.Inv → step s = .next t → t.Inv

/-- From a state with the invariant a step answers a next state when the next event is defined, and is refused as an
undefined stimulus when it is not (R52, R71, R216). That it answers when no event is waiting is the model's choice (log
entry 2). -/
def Obligations.StepAnswersDefinedEvents : Prop :=
  ∀ s : State, s.Inv →
    (s.nextDefined = true → ∃ t, step s = .next t) ∧
    (s.nextDefined = false → ∃ why, step s = .refused (.undefinedStimulus why))

/-- A step applies the next event: the decoded instruction, on the state without that event (R2, R56). -/
def Obligations.StepRunsDecodedInstruction : Prop :=
  ∀ (s : State) (e : Stimulus) (rest : List Stimulus) (i : Instr),
    s.pending = e :: rest → decode e = .ok i → step s = exec i { s with pending := rest }

/-- The model's choice (log entry 2): with no event waiting a step changes nothing. -/
def Obligations.NoEventNoChange : Prop := ∀ s : State, s.pending = [] → step s = .next s

/-- Every instruction answers a next state from every state whose card, if it is about to commit, holds an address in range
(R121; the premise is part of the invariant; outside it U13 refuses). -/
def Obligations.EveryInstructionCompletes : Prop :=
  ∀ (i : Instr) (s : State), (s.card.stage = 134 → s.card.addr < 1024) → ∃ t, exec i s = .next t

/-- The model's own fields: no instruction changes the parameters or the waiting events (log entries 1, 5, 6). -/
def Obligations.ExecKeepsParametersAndEvents : Prop :=
  ∀ (i : Instr) (s t : State), exec i s = .next t → t.par = s.par ∧ t.pending = s.pending

/-! ## Which event can change what -/

/-- Only a clock step asserts `irq`, and only one on which the countdown runs out (R39, R117). -/
def Obligations.IrqRaisedOnlyByClock : Prop :=
  ∀ (i : Instr) (s t : State), exec i s = .next t → s.irq = false → t.irq = true →
    ∃ n : Half, i = .step n ∧ 0 < s.irqTimer ∧ s.irqTimer ≤ n.toNat

/-- Only a CTRL write with bit 4 set and a reset clear `irq` (R32). -/
def Obligations.IrqClearedOnlyByCtrlOrReset : Prop :=
  ∀ (i : Instr) (s t : State), exec i s = .next t → s.irq = true → t.irq = false →
    (∃ v : Half, i = .wrCtrl v ∧ v.getLsbD 4 = true) ∨ i = .reset

/-- A DATA write with TXEN 1 is the only event that sets `rxPending` or `ack` (R39). -/
def Obligations.FlagsSetOnlyByDataWrite : Prop :=
  ∀ (i : Instr) (s t : State), exec i s = .next t →
    (s.rxPending = false ∧ t.rxPending = true) ∨ (s.ack = false ∧ t.ack = true) →
    ∃ b, serialByteOf i = some b ∧ s.ctrl.getLsbD 0 = true

/-- MODE, CTRL and BAUD change only by their own writes and by reset (R101, R220). -/
def Obligations.RegistersWrittenOnlyByTheirWrites : Prop :=
  ∀ (i : Instr) (s t : State), exec i s = .next t →
    (t.mode ≠ s.mode → i = .reset ∨ ∃ v, i = .wrMode v) ∧
    (t.ctrl ≠ s.ctrl → i = .reset ∨ ∃ v, i = .wrCtrl v) ∧
    (t.baud ≠ s.baud → i = .reset ∨ ∃ v, i = .wrBaud v)

/-- The configured pad kind changes only by a CONFIG event, the input record only by SETIN events (R34, R38). -/
def Obligations.PadKindAndInputOnlyByFrontEnd : Prop :=
  ∀ (i : Instr) (s t : State), exec i s = .next t →
    (t.padKind ≠ s.padKind → i = .configDigital ∨ i = .configAnalog ∨ i = .configMouse) ∧
    (t.input ≠ s.input →
      (∃ b0 b1, i = .setinBtn b0 b1) ∨
      ∃ v, i = .setinRx v ∨ i = .setinRy v ∨ i = .setinLx v ∨ i = .setinLy v ∨ i = .setinDx v ∨ i = .setinDy v)

/-- The store changes only at the checksum byte of a write transaction, and then by that one whole sector (R37, R185). -/
def Obligations.StoreWrittenOnlyByCommit : Prop :=
  ∀ (i : Instr) (s t : State), exec i s = .next t → t.store ≠ s.store →
    ∃ b, serialByteOf i = some b ∧ lineOpen s.ctrl = true ∧ s.sel = .memoryCard ∧ s.card.cmd = .write ∧
      s.card.stage = 134 ∧ b = checksum s.card.addrHi s.card.addrLo s.card.buf ∧
      s.store.writeSector s.card.addr s.card.buf = some t.store

/-- The analog mode changes only at stage 9 of an addressed analog pad, which toggles it, or by a CONFIG event, which
clears it (R35, R161). -/
def Obligations.AnalogModeWrittenOnlyByToggleOrConfig : Prop :=
  ∀ (i : Instr) (s t : State), exec i s = .next t → t.pad.analogMode ≠ s.pad.analogMode →
    (∃ b, serialByteOf i = some b ∧ s.sel = .controller ∧ s.padKind = .analog ∧ s.pad.stage = 9) ∨
    ((i = .configDigital ∨ i = .configAnalog ∨ i = .configMouse) ∧ t.pad.analogMode = false)

/-- An exchange writes at most one device, apart from the zeroing of the address phase. A byte sent to the card leaves the pad
alone, a byte sent to the pad leaves the card and the store alone, and an address byte changes no more than stages and the
command (R45, R112, R127). -/
def Obligations.DevicesAreIsolated : Prop :=
  ∀ (i : Instr) (b : Byte) (s t : State), serialByteOf i = some b → exec i s = .next t →
    ((t.pad = s.pad ∨ t.pad = { s.pad with stage := 0 }) ∨
      (t.store = s.store ∧ (t.card = s.card ∨ t.card = { s.card with stage := 0, cmd := .noCmd }))) ∧
    (s.sel = .memoryCard → t.pad = s.pad) ∧
    (s.sel = .controller → t.card = s.card ∧ t.store = s.store) ∧
    (s.sel = .none →
      t.pad.analogMode = s.pad.analogMode ∧ t.card.fresh = s.card.fresh ∧ t.card.buf = s.card.buf ∧
      t.card.addrHi = s.card.addrHi ∧ t.card.addrLo = s.card.addrLo ∧ t.store = s.store)

/-- After every exchange the latch holds a byte; and under the default policy the exchange is acknowledged exactly when a
transaction is still in flight after it, that is, when a device accepted the byte and its sequence goes on (R119, R126). -/
def Obligations.AckMeansSequenceGoesOn : Prop :=
  ∀ (i : Instr) (b : Byte) (s t : State), serialByteOf i = some b → s.ctrl.getLsbD 0 = true → exec i s = .next t →
    t.rxPending = true ∧ (s.par.ackPolicy = .default → (t.ack = true ↔ t.sel ≠ .none))

/-! ## The conditions -/

/-- The three conditions (R200 to R203). Causes: no device, by the gate or by an address byte that names none; a desync, by a
byte the addressed device does not expect at stage 0 or 1 (never at stage 0 in a state with the invariant); a card fault, by an
address out of range or a wrong checksum. Effects: the idle byte, no acknowledge, the selection cleared, the addressed device
at stage 0; nothing is armed, disarmed or committed, and `fresh` stays. -/
def Obligations.ConditionCausesAndEffects : Prop :=
  (∀ (s : State) (b : Byte),
    (s.exchangeCondition b = some .noDevice ↔
      (s.ctrl.getLsbD 1 = false ∨ s.ctrl.getLsbD 13 = true) ∨ (s.sel = .none ∧ b ≠ 0x01#8 ∧ b ≠ 0x81#8)) ∧
    (s.exchangeCondition b = some .desync ↔
      s.ctrl.getLsbD 1 = true ∧ s.ctrl.getLsbD 13 = false ∧
        ((s.sel = .controller ∧ ((s.pad.stage = 0 ∧ b ≠ 0x01#8) ∨
            (s.pad.stage = 1 ∧ b ≠ 0x42#8 ∧ ¬ (s.padKind = .analog ∧ b = 0x44#8)))) ∨
          (s.sel = .memoryCard ∧ ((s.card.stage = 0 ∧ b ≠ 0x81#8) ∨
            (s.card.stage = 1 ∧ b ≠ 0x52#8 ∧ b ≠ 0x57#8))))) ∧
    (s.Inv → s.exchangeCondition b = some .desync →
      (s.sel = .controller ∧ s.pad.stage = 1) ∨ (s.sel = .memoryCard ∧ s.card.stage = 1)) ∧
    (s.exchangeCondition b = some .cardFault ↔
      s.ctrl.getLsbD 1 = true ∧ s.ctrl.getLsbD 13 = false ∧ s.sel = .memoryCard ∧ s.card.cmd ≠ .noCmd ∧
        ((s.card.stage = 5 ∧ 1024 ≤ sectorIndex s.card.addrHi b) ∨
          (s.card.stage = 134 ∧ s.card.cmd = .write ∧ b ≠ checksum s.card.addrHi s.card.addrLo s.card.buf)))) ∧
  (∀ (i : Instr) (b : Byte) (s : State) (k : Condition), serialByteOf i = some b → s.ctrl.getLsbD 0 = true →
    s.exchangeCondition b = some k →
    ∃ t, exec i s = .next t ∧ t.rxData = 0xFF#8 ∧ t.rxPending = true ∧ t.ack = false ∧ t.sel = .none ∧
      t.irqTimer = s.irqTimer ∧ t.irq = s.irq ∧ t.store = s.store ∧ t.card.fresh = s.card.fresh ∧
      (k = .desync → (s.sel = .controller → t.pad.stage = 0) ∧ (s.sel = .memoryCard → t.card.stage = 0)) ∧
      (k = .cardFault → t.card.stage = 0 ∧ t.card.cmd = .noCmd))

/-! ## Register accesses -/

/-- `RD DATA` returns the latch, empties it and clears the flag; nothing else changes (R90). -/
def Obligations.ReadDataConsumes : Prop :=
  decode (.word 0x00000000#32) = .ok .rdData ∧ decode (.access (.read 0x0#4 1)) = .ok .rdData ∧
  ∀ s : State, exec .rdData s = .next { s with reply := .byte s.rxData, rxData := 0xFF#8, rxPending := false }

/-- After an `RD DATA`, STAT bit 1 is clear and a further `RD DATA` returns the idle byte, whatever happens in between, until
the next exchange (R100). -/
def Obligations.LatchStaysEmptyUntilExchange : Prop :=
  ∀ (s t u : State) (is : List Instr), exec .rdData s = .next t → t.runQuiet is = some u →
    u.stat.getLsbD 1 = false ∧ exec .rdData u = .next { u with reply := .byte 0xFF#8 }

/-- `RD STAT` returns the three flags at bits 1, 7 and 9, constant ones at bits 0 and 2 and zeros elsewhere, and changes
nothing else (R24, R92). -/
def Obligations.ReadStatShowsFlags : Prop :=
  decode (.word 0x04000000#32) = .ok .rdStat ∧ decode (.access (.read 0x4#4 2)) = .ok .rdStat ∧
  ∀ s : State, ∃ v : Half, exec .rdStat s = .next { s with reply := .half v } ∧
    ∀ n : Nat, v.getLsbD n =
      (decide (n = 0) || decide (n = 2) || (decide (n = 1) && s.rxPending) || (decide (n = 7) && s.ack)
        || (decide (n = 9) && s.irq))

/-- Reads of MODE, CTRL and BAUD return what is stored and change nothing else; CTRL bit 4 reads 0 in every state with the
invariant (R94, R96, R98). -/
def Obligations.ReadStoredRegisters : Prop :=
  decode (.word 0x08000000#32) = .ok .rdMode ∧ decode (.access (.read 0x8#4 2)) = .ok .rdMode ∧
  decode (.word 0x0A000000#32) = .ok .rdCtrl ∧ decode (.access (.read 0xA#4 2)) = .ok .rdCtrl ∧
  decode (.word 0x0E000000#32) = .ok .rdBaud ∧ decode (.access (.read 0xE#4 2)) = .ok .rdBaud ∧
  ∀ s : State,
    exec .rdMode s = .next { s with reply := .half s.mode } ∧
    exec .rdCtrl s = .next { s with reply := .half s.ctrl } ∧ (s.Inv → s.ctrl.getLsbD 4 = false) ∧
    exec .rdBaud s = .next { s with reply := .half s.baud }

/-- A write of STAT is accepted and has no effect (R93). -/
def Obligations.WriteStatDoesNothing : Prop :=
  ∀ v : Half, decode (.word (0x1400#16 ++ v)) = .ok (.wrStat v) ∧
    decode (.access (.write 0x4#4 [v.extractLsb' 0 8, v.extractLsb' 8 8])) = .ok (.wrStat v) ∧
    ∀ s : State, exec (.wrStat v) s = .next s

/-- Writes of MODE and BAUD store all 16 bits and change nothing else (R95, R99). -/
def Obligations.WriteModeAndBaudStore : Prop :=
  ∀ v : Half,
    decode (.word (0x1800#16 ++ v)) = .ok (.wrMode v) ∧ decode (.word (0x1E00#16 ++ v)) = .ok (.wrBaud v) ∧
    decode (.access (.write 0x8#4 [v.extractLsb' 0 8, v.extractLsb' 8 8])) = .ok (.wrMode v) ∧
    decode (.access (.write 0xE#4 [v.extractLsb' 0 8, v.extractLsb' 8 8])) = .ok (.wrBaud v) ∧
    ∀ s : State, exec (.wrMode v) s = .next { s with mode := v } ∧ exec (.wrBaud v) s = .next { s with baud := v }

/-- A write of CTRL stores every bit but bit 4, clears `irq` where bit 4 is set, ends the transaction where bit 1 is clear,
and changes nothing else (R97). -/
def Obligations.WriteCtrlStoresAcksDeselects : Prop :=
  ∀ v : Half, decode (.word (0x1A00#16 ++ v)) = .ok (.wrCtrl v) ∧
    decode (.access (.write 0xA#4 [v.extractLsb' 0 8, v.extractLsb' 8 8])) = .ok (.wrCtrl v) ∧
    ∀ s : State, ∃ c : Half,
      exec (.wrCtrl v) s = .next
        { s with
          ctrl := c
          irq := if v.getLsbD 4 then false else s.irq
          sel := if v.getLsbD 1 then s.sel else .none } ∧
      ∀ n : Nat, c.getLsbD n = (v.getLsbD n && decide (n ≠ 4))

/-- With TXEN 0 a DATA write does nothing at all (R91, R231). The rules say it of `WR DATA`; that a serial row is dropped too
is the model's reading of the rows (log entry 11). -/
def Obligations.DisabledTransferIsDropped : Prop :=
  ∀ (i : Instr) (b : Byte) (s : State), serialByteOf i = some b → s.ctrl.getLsbD 0 = false → exec i s = .next s

/-- The model's reading of the serial rows (log entry 11): a serial byte is the DATA write of that byte. -/
def Obligations.SerialRowIsDataWrite : Prop :=
  ∀ (i : Instr) (b : Byte) (s : State), serialByteOf i = some b → exec i s = exec (.wrData b) s

/-! ## The exchange -/

/-- SELECT off or slot 1: the idle byte is latched, nothing is acknowledged, the selection is cleared, no device moves
(R111, R114, R115). -/
def Obligations.ClosedGateAnswersIdle : Prop :=
  ∀ (i : Instr) (b : Byte) (s : State), serialByteOf i = some b → s.ctrl.getLsbD 0 = true →
    (s.ctrl.getLsbD 1 = false ∨ s.ctrl.getLsbD 13 = true) →
    exec i s = .next { s with sel := .none, rxData := 0xFF#8, rxPending := true, ack := false }

/-- The address phase (R112): with no transaction in flight both stages and the card's command are zeroed, and the byte names
the pad, the card, or no device. A device that is named answers the idle byte from its stage 0 (R131, R141, R151, R171). -/
def Obligations.AddressPhaseResolvesDevice : Prop :=
  ∀ (i : Instr) (b : Byte) (s : State), serialByteOf i = some b → lineOpen s.ctrl = true → s.sel = .none →
    (b = 0x01#8 →
      exec i s = .next
        (State.answered
          { s with
            pad := { s.pad with stage := 1 }
            card := { s.card with stage := 0, cmd := .noCmd }
            sel := .controller }
          0xFF#8 (policyAcks s.par.ackPolicy (padDevice s.padKind) 0 true 1))) ∧
    (b = 0x81#8 →
      exec i s = .next
        (State.answered
          { s with
            pad := { s.pad with stage := 0 }
            card := { s.card with stage := 1, cmd := .noCmd }
            sel := .memoryCard }
          0xFF#8 (policyAcks s.par.ackPolicy .card 0 true 1))) ∧
    (b ≠ 0x01#8 → b ≠ 0x81#8 →
      exec i s = .next
        { s with
          pad := { s.pad with stage := 0 }
          card := { s.card with stage := 0, cmd := .noCmd }
          sel := .none, rxData := 0xFF#8, rxPending := true, ack := false })

/-- The two address rows of the table select a device when no transaction is in flight (R72, R112). -/
def Obligations.AddressRowsSelect : Prop :=
  ∀ s : State, lineOpen s.ctrl = true → s.sel = .none →
    (∃ t, exec .addrPad s = .next t ∧ t.sel = .controller ∧ t.pad = { s.pad with stage := 1 } ∧ t.rxData = 0xFF#8) ∧
    (∃ t, exec .addrCard s = .next t ∧ t.sel = .memoryCard ∧ t.card = { s.card with stage := 1, cmd := .noCmd } ∧
      t.rxData = 0xFF#8)

/-- A transaction begins at an exchange that finds none in flight and an address byte, and ends in the ways of R122 and no
other: the device's stage is 0 after the exchange, the gate is closed, SELECT is written 0, reset, or the addressed device is
replaced. It never changes device. -/
def Obligations.TransactionBoundaries : Prop :=
  ∀ (i : Instr) (s t : State), exec i s = .next t →
    (s.sel = .none → t.sel ≠ .none →
      ∃ b, serialByteOf i = some b ∧ lineOpen s.ctrl = true ∧
        ((b = 0x01#8 ∧ t.sel = .controller) ∨ (b = 0x81#8 ∧ t.sel = .memoryCard))) ∧
    (s.sel ≠ .none → t.sel = .none →
      (∃ b, serialByteOf i = some b ∧ s.ctrl.getLsbD 0 = true ∧
        ((s.ctrl.getLsbD 1 = false ∨ s.ctrl.getLsbD 13 = true) ∨ (s.sel = .controller ∧ t.pad.stage = 0) ∨
          (s.sel = .memoryCard ∧ t.card.stage = 0))) ∨
      (∃ v : Half, i = .wrCtrl v ∧ v.getLsbD 1 = false) ∨ i = .reset ∨
      (s.sel = .controller ∧ (i = .configDigital ∨ i = .configAnalog ∨ i = .configMouse)) ∨
      (s.sel = .memoryCard ∧ i = .configCard)) ∧
    (s.sel ≠ .none → t.sel ≠ .none → t.sel = s.sel)

/-- The mouse's table, every stage (R130 to R138). -/
def Obligations.MouseTable : Prop :=
  ∀ (i : Instr) (b : Byte) (s : State), serialByteOf i = some b → lineOpen s.ctrl = true → s.sel = .controller →
    s.padKind = .mouse →
    (s.pad.stage = 0 → b = 0x01#8 → exec i s = .next (s.padAnswered true 0xFF#8 1 s.pad.analogMode)) ∧
    (s.pad.stage = 0 → b ≠ 0x01#8 → exec i s = .next (s.padAnswered false 0xFF#8 0 s.pad.analogMode)) ∧
    (s.pad.stage = 1 → b = 0x42#8 → exec i s = .next (s.padAnswered true 0x12#8 2 s.pad.analogMode)) ∧
    (s.pad.stage = 1 → b ≠ 0x42#8 → exec i s = .next (s.padAnswered false 0xFF#8 0 s.pad.analogMode)) ∧
    (s.pad.stage = 2 → exec i s = .next (s.padAnswered true 0x5A#8 3 s.pad.analogMode)) ∧
    (s.pad.stage = 3 → exec i s = .next (s.padAnswered true (~~~ s.input.btn0) 4 s.pad.analogMode)) ∧
    (s.pad.stage = 4 → exec i s = .next (s.padAnswered true (~~~ s.input.btn1) 5 s.pad.analogMode)) ∧
    (s.pad.stage = 5 → exec i s = .next (s.padAnswered true s.input.dx 6 s.pad.analogMode)) ∧
    (s.pad.stage = 6 → exec i s = .next (s.padAnswered true s.input.dy 0 s.pad.analogMode)) ∧
    (6 < s.pad.stage → exec i s = .next (s.padAnswered false 0xFF#8 0 s.pad.analogMode))

/-- The digital pad's table, every stage (R140 to R146). -/
def Obligations.DigitalTable : Prop :=
  ∀ (i : Instr) (b : Byte) (s : State), serialByteOf i = some b → lineOpen s.ctrl = true → s.sel = .controller →
    s.padKind = .digital →
    (s.pad.stage = 0 → b = 0x01#8 → exec i s = .next (s.padAnswered true 0xFF#8 1 s.pad.analogMode)) ∧
    (s.pad.stage = 0 → b ≠ 0x01#8 → exec i s = .next (s.padAnswered false 0xFF#8 0 s.pad.analogMode)) ∧
    (s.pad.stage = 1 → b = 0x42#8 → exec i s = .next (s.padAnswered true 0x41#8 2 s.pad.analogMode)) ∧
    (s.pad.stage = 1 → b ≠ 0x42#8 → exec i s = .next (s.padAnswered false 0xFF#8 0 s.pad.analogMode)) ∧
    (s.pad.stage = 2 → exec i s = .next (s.padAnswered true 0x5A#8 3 s.pad.analogMode)) ∧
    (s.pad.stage = 3 → exec i s = .next (s.padAnswered true (~~~ s.input.btn0) 4 s.pad.analogMode)) ∧
    (s.pad.stage = 4 → exec i s = .next (s.padAnswered true (~~~ s.input.btn1) 0 s.pad.analogMode)) ∧
    (4 < s.pad.stage → exec i s = .next (s.padAnswered false 0xFF#8 0 s.pad.analogMode))

/-- The analog pad's table, every stage, both modes (R150 to R162). -/
def Obligations.AnalogTable : Prop :=
  ∀ (i : Instr) (b : Byte) (s : State) (id : Byte), serialByteOf i = some b → lineOpen s.ctrl = true →
    s.sel = .controller → s.padKind = .analog → id = (if s.pad.analogMode then 0x73#8 else 0x41#8) →
    (s.pad.stage = 0 → b = 0x01#8 → exec i s = .next (s.padAnswered true 0xFF#8 1 s.pad.analogMode)) ∧
    (s.pad.stage = 0 → b ≠ 0x01#8 → exec i s = .next (s.padAnswered false 0xFF#8 0 s.pad.analogMode)) ∧
    (s.pad.stage = 1 → b = 0x42#8 → exec i s = .next (s.padAnswered true id 2 s.pad.analogMode)) ∧
    (s.pad.stage = 1 → b = 0x44#8 → exec i s = .next (s.padAnswered true id 9 s.pad.analogMode)) ∧
    (s.pad.stage = 1 → b ≠ 0x42#8 → b ≠ 0x44#8 →
      exec i s = .next (s.padAnswered false 0xFF#8 0 s.pad.analogMode)) ∧
    (s.pad.stage = 2 → exec i s = .next (s.padAnswered true 0x5A#8 3 s.pad.analogMode)) ∧
    (s.pad.stage = 3 → exec i s = .next (s.padAnswered true (~~~ s.input.btn0) 4 s.pad.analogMode)) ∧
    (s.pad.stage = 4 → s.pad.analogMode = false →
      exec i s = .next (s.padAnswered true (~~~ s.input.btn1) 0 s.pad.analogMode)) ∧
    (s.pad.stage = 4 → s.pad.analogMode = true →
      exec i s = .next (s.padAnswered true (~~~ s.input.btn1) 5 s.pad.analogMode)) ∧
    (s.pad.stage = 5 → exec i s = .next (s.padAnswered true s.input.rx 6 s.pad.analogMode)) ∧
    (s.pad.stage = 6 → exec i s = .next (s.padAnswered true s.input.ry 7 s.pad.analogMode)) ∧
    (s.pad.stage = 7 → exec i s = .next (s.padAnswered true s.input.lx 8 s.pad.analogMode)) ∧
    (s.pad.stage = 8 → exec i s = .next (s.padAnswered true s.input.ly 0 s.pad.analogMode)) ∧
    (s.pad.stage = 9 → exec i s = .next (s.padAnswered true 0x5A#8 0 (!s.pad.analogMode))) ∧
    (9 < s.pad.stage → exec i s = .next (s.padAnswered false 0xFF#8 0 s.pad.analogMode))

/-- The command rows at the stage where each counts: the poll of each pad, the analog pad's mode switch, the card's read and
write (R72, R132, R142, R152, R153, R172). -/
def Obligations.CommandRowsSelect : Prop :=
  ∀ s : State, lineOpen s.ctrl = true →
    (s.sel = .controller → s.pad.stage = 1 → ∀ id : Byte,
      id = (match s.padKind with
            | .mouse => 0x12#8
            | .digital => 0x41#8
            | .analog => if s.pad.analogMode then 0x73#8 else 0x41#8) →
      exec .padPoll s = .next (s.padAnswered true id 2 s.pad.analogMode) ∧
      (s.padKind = .analog → exec .padMode s = .next (s.padAnswered true id 9 s.pad.analogMode)) ∧
      (s.padKind ≠ .analog → exec .padMode s = .next (s.padAnswered false 0xFF#8 0 s.pad.analogMode))) ∧
    (s.sel = .memoryCard → s.card.stage = 1 → ∀ flag : Byte, flag = (if s.card.fresh then 0x08#8 else 0x00#8) →
      exec .cardRead s = .next (s.cardAnswered true flag { s.card with stage := 2, cmd := .read }) ∧
      exec .cardWrite s = .next (s.cardAnswered true flag { s.card with stage := 2, cmd := .write }))

/-- The card's common stages 0 to 4 (R171 to R175) and its invalid stages without a command (R189). -/
def Obligations.CardHeaderTable : Prop :=
  ∀ (i : Instr) (b : Byte) (s : State) (flag : Byte), serialByteOf i = some b → lineOpen s.ctrl = true →
    s.sel = .memoryCard → flag = (if s.card.fresh then 0x08#8 else 0x00#8) →
    (s.card.stage = 0 → b = 0x81#8 → exec i s = .next (s.cardAnswered true 0xFF#8 { s.card with stage := 1 })) ∧
    (s.card.stage = 0 → b ≠ 0x81#8 → exec i s = .next (s.cardAnswered false 0xFF#8 s.card)) ∧
    (s.card.stage = 1 → b = 0x52#8 →
      exec i s = .next (s.cardAnswered true flag { s.card with stage := 2, cmd := .read })) ∧
    (s.card.stage = 1 → b = 0x57#8 →
      exec i s = .next (s.cardAnswered true flag { s.card with stage := 2, cmd := .write })) ∧
    (s.card.stage = 1 → b ≠ 0x52#8 → b ≠ 0x57#8 →
      exec i s = .next (s.cardAnswered false 0xFF#8 { s.card with stage := 0, cmd := .noCmd })) ∧
    (2 ≤ s.card.stage → s.card.cmd = .noCmd →
      exec i s = .next (s.cardAnswered false 0xFF#8 { s.card with stage := 0, cmd := .noCmd })) ∧
    (s.card.cmd ≠ .noCmd → s.card.stage = 2 →
      exec i s = .next (s.cardAnswered true 0x5A#8 { s.card with stage := 3 })) ∧
    (s.card.cmd ≠ .noCmd → s.card.stage = 3 →
      exec i s = .next (s.cardAnswered true 0x5D#8 { s.card with stage := 4 })) ∧
    (s.card.cmd ≠ .noCmd → s.card.stage = 4 →
      exec i s = .next (s.cardAnswered true 0x00#8 { s.card with stage := 5, addrHi := b }))

/-- Stage 5: the range check of the sector address, and the fetch of a read (R176). -/
def Obligations.CardAddressRange : Prop :=
  ∀ (i : Instr) (b : Byte) (s : State), serialByteOf i = some b → lineOpen s.ctrl = true → s.sel = .memoryCard →
    s.card.stage = 5 →
    (s.card.cmd = .read → 256 * s.card.addrHi.toNat + b.toNat < 1024 →
      exec i s = .next
        (s.cardAnswered true s.card.addrHi
          { s.card with stage := 6, addrLo := b, buf := s.store.sector (256 * s.card.addrHi.toNat + b.toNat) })) ∧
    (s.card.cmd = .write → 256 * s.card.addrHi.toNat + b.toNat < 1024 →
      exec i s = .next (s.cardAnswered true s.card.addrHi { s.card with stage := 6, addrLo := b })) ∧
    (s.card.cmd ≠ .noCmd → 1024 ≤ 256 * s.card.addrHi.toNat + b.toNat →
      exec i s = .next
        (s.cardAnswered false 0xFF#8 { s.card with stage := 0, cmd := .noCmd, addrLo := b }))

/-- The read sequence from stage 6 on, and its invalid stages (R177 to R183, R189, R190). -/
def Obligations.CardReadTable : Prop :=
  ∀ (i : Instr) (b : Byte) (s : State), serialByteOf i = some b → lineOpen s.ctrl = true → s.sel = .memoryCard →
    s.card.cmd = .read →
    (s.card.stage = 6 → exec i s = .next (s.cardAnswered true 0x5C#8 { s.card with stage := 7 })) ∧
    (s.card.stage = 7 → exec i s = .next (s.cardAnswered true 0x5D#8 { s.card with stage := 8 })) ∧
    (s.card.stage = 8 → exec i s = .next (s.cardAnswered true s.card.addrHi { s.card with stage := 9 })) ∧
    (s.card.stage = 9 → exec i s = .next (s.cardAnswered true s.card.addrLo { s.card with stage := 10 })) ∧
    (∀ (n : Nat) (h : n < 128), s.card.stage = 10 + n →
      exec i s = .next (s.cardAnswered true s.card.buf[n] { s.card with stage := 11 + n })) ∧
    (s.card.stage = 138 →
      exec i s = .next
        (s.cardAnswered true (checksum s.card.addrHi s.card.addrLo s.card.buf) { s.card with stage := 139 })) ∧
    (s.card.stage = 139 →
      exec i s = .next (s.cardAnswered true 0x47#8 { s.card with stage := 0, cmd := .noCmd })) ∧
    (139 < s.card.stage →
      exec i s = .next (s.cardAnswered false 0xFF#8 { s.card with stage := 0, cmd := .noCmd }))

/-- The write sequence but its checksum stage, and its invalid stages (R184, R186 to R190). -/
def Obligations.CardWriteTable : Prop :=
  ∀ (i : Instr) (b : Byte) (s : State), serialByteOf i = some b → lineOpen s.ctrl = true → s.sel = .memoryCard →
    s.card.cmd = .write →
    (s.card.stage = 6 →
      exec i s = .next
        (s.cardAnswered true s.card.addrLo { s.card with stage := 7, buf := s.card.buf.set 0 b })) ∧
    (∀ (n : Nat) (h : n + 1 < 128), s.card.stage = 7 + n →
      exec i s = .next
        (s.cardAnswered true s.card.buf[n] { s.card with stage := 8 + n, buf := s.card.buf.set (n + 1) b })) ∧
    (s.card.stage = 135 → exec i s = .next (s.cardAnswered true 0x5C#8 { s.card with stage := 136 })) ∧
    (s.card.stage = 136 → exec i s = .next (s.cardAnswered true 0x5D#8 { s.card with stage := 137 })) ∧
    (s.card.stage = 137 →
      exec i s = .next (s.cardAnswered true 0x47#8 { s.card with stage := 0, cmd := .noCmd })) ∧
    (137 < s.card.stage →
      exec i s = .next (s.cardAnswered false 0xFF#8 { s.card with stage := 0, cmd := .noCmd }))

/-- The checksum stage of a write (R185): a good checksum commits exactly the 128 bytes of one sector and clears `fresh`; a
wrong one aborts and commits nothing; at no other stage does the card write the store. -/
def Obligations.CardChecksumCommitsOrAborts : Prop :=
  ∀ (i : Instr) (b : Byte) (s : State), serialByteOf i = some b → lineOpen s.ctrl = true → s.sel = .memoryCard →
    (s.card.cmd = .write → s.card.stage = 134 → b = checksum s.card.addrHi s.card.addrLo s.card.buf →
      s.card.addr < 1024 → s.store.wf = true →
      ∃ m : Memory,
        exec i s = .next
          (State.cardAnswered { s with store := m } true s.card.buf[127]
            { s.card with stage := 135, fresh := false }) ∧
        (∀ (n : Nat) (h : n < 128), m.read (128 * s.card.addr + n) = s.card.buf[n]) ∧
        (∀ a, a < 128 * s.card.addr ∨ 128 * s.card.addr + 128 ≤ a → m.read a = s.store.read a) ∧
        m.wf = true) ∧
    (s.card.cmd = .write → s.card.stage = 134 → b ≠ checksum s.card.addrHi s.card.addrLo s.card.buf →
      exec i s = .next (s.cardAnswered false 0xFF#8 { s.card with stage := 0, cmd := .noCmd })) ∧
    (s.card.cmd ≠ .write ∨ s.card.stage ≠ 134 → ∃ t, exec i s = .next t ∧ t.store = s.store)

/-- In a state that no run reaches, with a commit to a sector the store does not have, the exchange is refused by name (R61;
log entry 13). -/
def Obligations.OutOfRangeCommitIsRefused : Prop :=
  ∀ (i : Instr) (b : Byte) (s : State), serialByteOf i = some b → lineOpen s.ctrl = true → s.sel = .memoryCard →
    s.card.cmd = .write → s.card.stage = 134 → b = checksum s.card.addrHi s.card.addrLo s.card.buf →
    1024 ≤ s.card.addr → exec i s = .refused (.sectorOutOfRange s.card.addr) ∧ ¬ s.Inv

/-! ## The clock and the interrupt -/

/-- `STEP n` is `n` clock steps: each counts down while armed, asserts `irq` on reaching 0, and changes nothing else (R117). -/
def Obligations.StepCountsDown : Prop :=
  ∀ n : Half, decode (.word (0x2000#16 ++ n)) = .ok (.step n) ∧
    ∀ s : State,
      exec (.step n) s = .next
        (Nat.repeat
          (fun x : State => { x with irqTimer := x.irqTimer - 1, irq := if x.irqTimer = 1 then true else x.irq })
          n.toNat s)

/-- An exchange loads the countdown with `ACK_IRQ_DELAY` exactly when it is acknowledged while ACKIE is 1, whatever the
countdown held, and leaves it alone otherwise; it never writes `irq` (R115, R118). -/
def Obligations.AcknowledgedExchangeArms : Prop :=
  ∀ (i : Instr) (b : Byte) (s t : State), serialByteOf i = some b → s.ctrl.getLsbD 0 = true → exec i s = .next t →
    t.irq = s.irq ∧
    t.irqTimer = (if t.ack = true ∧ s.ctrl.getLsbD 12 = true then s.par.ackDelay.beyondOne + 1 else s.irqTimer)

/-- After an arming exchange from a state with `irq` false, `irq` is true exactly from the `ACK_IRQ_DELAY`-th clock step on,
whatever register reads, and writes other than DATA and an acknowledging CTRL, are interleaved (R120). -/
def Obligations.IrqRisesAfterDelay : Prop :=
  ∀ (i : Instr) (b : Byte) (s t u : State) (is : List Instr) (n : Nat), serialByteOf i = some b →
    s.ctrl.getLsbD 0 = true → s.ctrl.getLsbD 12 = true → s.irq = false → exec i s = .next t → t.ack = true →
    t.runCounting is = some (u, n) → (u.irq = true ↔ s.par.ackDelay.beyondOne + 1 ≤ n)

/-- The countdown is written by an acknowledged exchange with ACKIE 1, by clock steps, which only lower it, and by reset, and
by nothing else (R31, R212). -/
def Obligations.CountdownWrittenOnlyByArmClockReset : Prop :=
  ∀ (i : Instr) (s t : State), exec i s = .next t → t.irqTimer ≠ s.irqTimer →
    (∃ b, serialByteOf i = some b ∧ s.ctrl.getLsbD 0 = true ∧ s.ctrl.getLsbD 12 = true ∧ t.ack = true ∧
      t.irqTimer = s.par.ackDelay.beyondOne + 1) ∨
    (∃ n : Half, i = .step n ∧ t.irqTimer < s.irqTimer) ∨ (i = .reset ∧ t.irqTimer = 0)

/-! ## The front-end -/

/-- Each SETIN event writes its field of the input record and nothing else (R123). -/
def Obligations.SetinWritesItsField : Prop :=
  ∀ v w : Byte,
    decode (.word (0x4000#16 ++ w ++ v)) = .ok (.setinBtn v w) ∧
    decode (.word (0x410000#24 ++ v)) = .ok (.setinRx v) ∧ decode (.word (0x420000#24 ++ v)) = .ok (.setinRy v) ∧
    decode (.word (0x430000#24 ++ v)) = .ok (.setinLx v) ∧ decode (.word (0x440000#24 ++ v)) = .ok (.setinLy v) ∧
    decode (.word (0x450000#24 ++ v)) = .ok (.setinDx v) ∧ decode (.word (0x460000#24 ++ v)) = .ok (.setinDy v) ∧
    ∀ s : State,
      exec (.setinBtn v w) s = .next { s with input := { s.input with btn0 := v, btn1 := w } } ∧
      exec (.setinRx v) s = .next { s with input := { s.input with rx := v } } ∧
      exec (.setinRy v) s = .next { s with input := { s.input with ry := v } } ∧
      exec (.setinLx v) s = .next { s with input := { s.input with lx := v } } ∧
      exec (.setinLy v) s = .next { s with input := { s.input with ly := v } } ∧
      exec (.setinDx v) s = .next { s with input := { s.input with dx := v } } ∧
      exec (.setinDy v) s = .next { s with input := { s.input with dy := v } }

/-- CONFIG puts in a fresh pad of the kind, or a fresh card over the same store, ends a transaction with the replaced device,
and changes nothing else (R124, R125). -/
def Obligations.ConfigReplacesDevice : Prop :=
  decode (.word 0x50000000#32) = .ok .configDigital ∧ decode (.word 0x50000001#32) = .ok .configAnalog ∧
  decode (.word 0x50000002#32) = .ok .configMouse ∧ decode (.word 0x51000000#32) = .ok .configCard ∧
  ∀ s : State,
    (∀ (i : Instr) (k : PadKind),
      (i = .configDigital ∧ k = .digital) ∨ (i = .configAnalog ∧ k = .analog) ∨ (i = .configMouse ∧ k = .mouse) →
      exec i s = .next
        { s with
          padKind := k
          pad := { stage := 0, analogMode := false }
          sel := if s.sel = .controller then .none else s.sel }) ∧
    exec .configCard s = .next
      { s with
        card :=
          { stage := 0, cmd := .noCmd, addrHi := 0#8, addrLo := 0#8, buf := Vector.replicate 128 0#8, fresh := true }
        sel := if s.sel = .memoryCard then .none else s.sel }

/-! ## Whole transactions -/

/-- Seven bytes `01 42 x x x x x` to a mouse answer `FF 12 5A ~btn0 ~btn1 dx dy`, and the mouse is back at stage 0 (R129). -/
def Obligations.MousePollSequence : Prop :=
  ∀ (s : State) (x2 x3 x4 x5 x6 : Byte), lineOpen s.ctrl = true → s.sel = .none → s.padKind = .mouse →
    ∃ t, s.sendBytes [0x01#8, 0x42#8, x2, x3, x4, x5, x6] =
        some (t, [0xFF#8, 0x12#8, 0x5A#8, ~~~ s.input.btn0, ~~~ s.input.btn1, s.input.dx, s.input.dy]) ∧
      t.pad.stage = 0 ∧ t.sel = .none

/-- The digital poll, of a digital pad and of an analog pad in digital-compatible mode, and the analog poll of an analog pad
(R147, R163 P1 and P2). -/
def Obligations.PadPollSequences : Prop :=
  ∀ (s : State) (x2 x3 x4 x5 x6 x7 x8 : Byte), lineOpen s.ctrl = true → s.sel = .none →
    (s.padKind = .digital ∨ (s.padKind = .analog ∧ s.pad.analogMode = false) →
      ∃ t, s.sendBytes [0x01#8, 0x42#8, x2, x3, x4] =
          some (t, [0xFF#8, 0x41#8, 0x5A#8, ~~~ s.input.btn0, ~~~ s.input.btn1]) ∧
        t.pad = { s.pad with stage := 0 } ∧ t.sel = .none) ∧
    (s.padKind = .analog ∧ s.pad.analogMode = true →
      ∃ t, s.sendBytes [0x01#8, 0x42#8, x2, x3, x4, x5, x6, x7, x8] =
          some (t, [0xFF#8, 0x73#8, 0x5A#8, ~~~ s.input.btn0, ~~~ s.input.btn1, s.input.rx, s.input.ry, s.input.lx,
            s.input.ly]) ∧
        t.pad = { s.pad with stage := 0 } ∧ t.sel = .none)

/-- Three bytes `01 44 x` toggle the analog pad's mode, answering with the identifier of the old mode, and doing it twice
restores it (R163 P3). -/
def Obligations.ModeSwitchToggles : Prop :=
  ∀ (s : State) (x y id : Byte), lineOpen s.ctrl = true → s.sel = .none → s.padKind = .analog →
    id = (if s.pad.analogMode then 0x73#8 else 0x41#8) →
    ∃ t, s.sendBytes [0x01#8, 0x44#8, x] = some (t, [0xFF#8, id, 0x5A#8]) ∧
      t.pad.analogMode = (!s.pad.analogMode) ∧ t.sel = .none ∧
      ∃ u rs, t.sendBytes [0x01#8, 0x44#8, y] = some (u, rs) ∧ u.pad.analogMode = s.pad.analogMode

/-- Writing 128 bytes to sector K with a valid checksum and then reading sector K returns the identical 128 bytes; every
other sector is left as it was, and the read changes no sector (R60, R192 P1, P4). -/
def Obligations.CardWriteThenRead : Prop :=
  ∀ (s : State) (k : Nat) (d : Sector), lineOpen s.ctrl = true → s.sel = .none → s.store.wf = true → k < 1024 →
    ∃ t rs u, s.sendBytes (writeTransaction k d (checksum (addressHigh k) (addressLow k) d)) = some (t, rs) ∧
      t.store.sector k = d ∧ (∀ j, j ≠ k → t.store.sector j = s.store.sector j) ∧ t.card.fresh = false ∧
      t.sel = .none ∧
      t.sendBytes (readTransaction k) = some (u, readResponses 0x00#8 k d) ∧ u.store = t.store ∧ u.sel = .none

/-- A write with a wrong checksum is answered with the idle byte at its checksum and leaves every sector as it was (R192
P2). -/
def Obligations.BadChecksumKeepsStore : Prop :=
  ∀ (s : State) (k : Nat) (d : Sector) (chk : Byte), lineOpen s.ctrl = true → s.sel = .none → k < 1024 →
    chk ≠ checksum (addressHigh k) (addressLow k) d →
    ∃ t rs, s.sendBytes (writeHeader k ++ d.toList ++ [chk]) = some (t, rs ++ [0xFF#8]) ∧ t.store = s.store ∧
      t.ack = false ∧ t.card.fresh = s.card.fresh ∧ t.card.stage = 0 ∧ t.card.cmd = .noCmd ∧ t.sel = .none

/-! ## What makes no difference -/

/-- MODE and BAUD are inert: for every instruction but their own reads, a run from a state that differs only in them ends in
a state that differs only in them (R25, R27). -/
def Obligations.ModeAndBaudAreInert : Prop :=
  ∀ (i : Instr) (s t : State) (m b : Half), i ≠ .rdMode → i ≠ .rdBaud → exec i s = .next t →
    ∃ t', exec i { s with mode := m, baud := b } = .next t' ∧
      ({ t' with mode := t.mode, baud := t.baud } : State) = t

/-- Responses, stages, the selection and the store do not depend on the acknowledge policy (R119, R139). -/
def Obligations.ResponsesIgnoreAckPolicy : Prop :=
  ∀ (i : Instr) (s t : State) (p : AckPolicy), exec i s = .next t →
    ∃ t', exec i { s with par := { s.par with ackPolicy := p } } = .next t' ∧
      t'.rxData = t.rxData ∧ t'.rxPending = t.rxPending ∧ t'.reply = t.reply ∧ t'.sel = t.sel ∧ t'.pad = t.pad ∧
      t'.card = t.card ∧ t'.store = t.store
end

