-- ==== Sys2Proof/Laws/Decode.lean ====
section
/-! SUPPORT. The small lemmas of the word fields: a word made of fields has those fields, a word is made of its own, and masking
a word away leaves its kind and offset. -/

namespace Sys2Proof

@[simp] theorem wordKind_makeWord (k o : BitVec 4) (d : Half) : wordKind (makeWord k o d) = k := by
  apply BitVec.eq_of_getLsbD_eq; intro i hi
  simp only [wordKind, makeWord, BitVec.getLsbD_append, BitVec.getLsbD_extractLsb']
  interval_cases i <;> rfl

@[simp] theorem wordOff_makeWord (k o : BitVec 4) (d : Half) : wordOff (makeWord k o d) = o := by
  apply BitVec.eq_of_getLsbD_eq; intro i hi
  simp only [wordOff, makeWord, BitVec.getLsbD_append, BitVec.getLsbD_extractLsb']
  interval_cases i <;> rfl

@[simp] theorem wordReserved_makeWord (k o : BitVec 4) (d : Half) : wordReserved (makeWord k o d) = 0#8 := by
  apply BitVec.eq_of_getLsbD_eq; intro i hi
  simp only [wordReserved, makeWord, BitVec.getLsbD_append, BitVec.getLsbD_extractLsb']
  interval_cases i <;> rfl

@[simp] theorem wordData_makeWord (k o : BitVec 4) (d : Half) : wordData (makeWord k o d) = d := by
  apply BitVec.eq_of_getLsbD_eq; intro i hi
  simp only [wordData, makeWord, BitVec.getLsbD_append, BitVec.getLsbD_extractLsb']
  interval_cases i <;> rfl

@[simp] theorem lowByte_append (h l : Byte) : lowByte (h ++ l) = l := by
  apply BitVec.eq_of_getLsbD_eq; intro i hi
  simp only [lowByte, BitVec.getLsbD_append, BitVec.getLsbD_extractLsb']
  interval_cases i <;> rfl

@[simp] theorem highByte_append (h l : Byte) : highByte (h ++ l) = h := by
  apply BitVec.eq_of_getLsbD_eq; intro i hi
  simp only [highByte, BitVec.getLsbD_append, BitVec.getLsbD_extractLsb']
  interval_cases i <;> rfl

theorem highByte_append_lowByte (d : Half) : highByte d ++ lowByte d = d := by
  apply BitVec.eq_of_getLsbD_eq; intro i hi
  simp only [highByte, lowByte, BitVec.getLsbD_append, BitVec.getLsbD_extractLsb']
  interval_cases i <;> rfl

/-- A word is the concatenation of its four fields (R71). -/
theorem word_eq_fields (w : Word) : wordKind w ++ wordOff w ++ wordReserved w ++ wordData w = w := by
  apply BitVec.eq_of_getLsbD_eq; intro i hi
  simp only [wordKind, wordOff, wordReserved, wordData, BitVec.getLsbD_append, BitVec.getLsbD_extractLsb']
  interval_cases i <;> rfl

/-- A word whose bits 23:16 are 0 is made of its kind, offset and data. -/
theorem makeWord_fields {w : Word} (h : wordReserved w = 0#8) : makeWord (wordKind w) (wordOff w) (wordData w) = w := by
  have e := word_eq_fields w
  rw [h] at e
  exact e

/-- A word with a byte operand, written as its upper 24 bits and the byte. -/
theorem append_byte (k o : BitVec 4) (v : Byte) : (k ++ o ++ 0#16 : BitVec 24) ++ v = makeWord k o (0#8 ++ v) := by
  apply BitVec.eq_of_getLsbD_eq; intro i hi
  simp only [makeWord, BitVec.getLsbD_append]
  interval_cases i <;> simp

/-- A word with a 16-bit operand, written as its upper and lower halves. -/
theorem append_half (k o : BitVec 4) (v : Half) : (k ++ o ++ 0#8 : BitVec 16) ++ v = makeWord k o v := rfl

/-- The decoder on a word made of fields. -/
@[simp] theorem decodeWord_makeWord (k o : BitVec 4) (d : Half) : decodeWord (makeWord k o d) = decodeFields k o d := by
  simp [decodeWord]

/-- The mask of a row with a 16-bit operand keeps kind, offset and the zero field. -/
theorem makeWord_and_operandMask (k o : BitVec 4) (d : Half) : makeWord k o d &&& 0xFFFF0000#32 = makeWord k o 0#16 := by
  apply BitVec.eq_of_getLsbD_eq; intro i hi
  simp only [makeWord, BitVec.getLsbD_append, BitVec.getLsbD_and]
  interval_cases i <;> simp

/-- The mask of a row with a byte operand keeps everything but the byte. -/
theorem makeWord_and_byteMask (k o : BitVec 4) (b : Byte) : makeWord k o (0#8 ++ b) &&& 0xFFFFFF00#32 = makeWord k o 0#16 := by
  apply BitVec.eq_of_getLsbD_eq; intro i hi
  simp only [makeWord, BitVec.getLsbD_append, BitVec.getLsbD_and]
  interval_cases i <;> simp

end Sys2Proof
end

