-- ==== Sys2Proof/Laws/Memory.lean ====
section
/-! SUPPORT. The laws of the sector store: every operation keeps the canonical form, a read after a write gives the value
written, and a write leaves every other place alone. -/

namespace Sys2Proof.Machine

/-- The shape of the canonical form at a cell. -/
theorem Memory.wfFrom_cons (lo x : Nat) (y : Byte) (m : Memory) :
    Memory.wfFrom lo ((x, y) :: m) = true ↔
      lo ≤ x ∧ x < Memory.size ∧ y ≠ Memory.unlisted ∧ Memory.wfFrom (x + 1) m = true := by
  simp [Memory.wfFrom, and_assoc]

/-- A lower bound may be lowered. -/
theorem Memory.wfFrom_mono {lo lo' : Nat} (h : lo' ≤ lo) : ∀ {m : Memory}, m.wfFrom lo = true → m.wfFrom lo' = true
  | [], _ => rfl
  | (x, y) :: m, hm => by
    rw [Memory.wfFrom_cons] at hm ⊢
    exact ⟨by omega, hm.2⟩

/-- Below its lower bound nothing is listed. -/
theorem Memory.read_below {a : Nat} : ∀ {m : Memory} {lo : Nat}, m.wfFrom lo = true → a < lo → m.read a = Memory.unlisted
  | [], _, _, _ => rfl
  | (x, y) :: m, lo, hm, h => by
    rw [Memory.wfFrom_cons] at hm
    rw [Memory.read, if_neg (by omega)]
    exact Memory.read_below hm.2.2.2 (by omega)

/-- One cell put before a well-formed rest. -/
theorem Memory.wfFrom_cell {lo a : Nat} {b : Byte} {m : Memory} (hlo : lo ≤ a) (ha : a < Memory.size)
    (hm : m.wfFrom (a + 1) = true) : Memory.wfFrom lo (Memory.cell a b ++ m) = true := by
  unfold Memory.cell
  split
  · exact Memory.wfFrom_mono (by omega) hm
  · simpa [Memory.wfFrom_cons] using ⟨hlo, ha, ‹_›, hm⟩

/-- A write keeps the canonical form. -/
theorem Memory.wfFrom_write {a : Nat} {b : Byte} (ha : a < Memory.size) :
    ∀ {m : Memory} {lo : Nat}, lo ≤ a → m.wfFrom lo = true → (m.write a b).wfFrom lo = true
  | [], lo, hlo, _ => by simpa [Memory.write] using Memory.wfFrom_cell (m := []) hlo ha rfl
  | (x, y) :: m, lo, hlo, hm => by
    have h := (Memory.wfFrom_cons lo x y m).1 hm
    unfold Memory.write
    split
    · exact Memory.wfFrom_cell hlo ha (by rw [Memory.wfFrom_cons]; exact ⟨by omega, h.2⟩)
    · split
      · exact Memory.wfFrom_cell hlo ha (by rename_i e; rw [e]; exact h.2.2.2)
      · rw [Memory.wfFrom_cons]
        exact ⟨h.1, h.2.1, h.2.2.1, Memory.wfFrom_write ha (by omega) h.2.2.2⟩

/-- A write keeps the canonical form. -/
theorem Memory.write_wf {m : Memory} {a : Nat} (b : Byte) (ha : a < Memory.size) (hm : m.wf = true) :
    (m.write a b).wf = true := Memory.wfFrom_write ha (Nat.zero_le a) hm

/-- What a cell before a rest reads as. -/
theorem Memory.read_cell {lo a c : Nat} {b : Byte} {m : Memory} (hm : m.wfFrom lo = true) (h : a < lo) :
    Memory.read (Memory.cell a b ++ m) c = if c = a then b else m.read c := by
  unfold Memory.cell
  split
  · rename_i hb
    split
    · rename_i hc; subst hc; rw [List.nil_append, Memory.read_below hm h, hb]
    · rfl
  · simp [Memory.read]

/-- A read after a write: the value at the address written, what was there at every other. -/
theorem Memory.read_write_from {a c : Nat} {b : Byte} : ∀ {m : Memory} {lo : Nat}, m.wfFrom lo = true →
    (m.write a b).read c = if c = a then b else m.read c
  | [], _, _ => by simpa [Memory.write] using Memory.read_cell (lo := a + 1) (m := []) (b := b) (c := c) rfl (by omega)
  | (x, y) :: m, lo, hm => by
    have h := (Memory.wfFrom_cons lo x y m).1 hm
    unfold Memory.write
    split
    · exact Memory.read_cell (lo := x) (by rw [Memory.wfFrom_cons]; exact ⟨by omega, h.2⟩) (by omega)
    · split
      · rename_i e; subst e
        rw [Memory.read_cell h.2.2.2 (by omega)]
        split <;> simp_all [Memory.read]
      · rw [Memory.read, Memory.read, Memory.read_write_from h.2.2.2]
        split <;> split <;> simp_all

/-- A read after a write. -/
theorem Memory.read_write {m : Memory} {a : Nat} (b : Byte) (c : Nat) (hm : m.wf = true) :
    (m.write a b).read c = if c = a then b else m.read c := Memory.read_write_from hm

/-- Writing a run of bytes keeps the canonical form. -/
theorem Memory.writeBytes_wf : ∀ (bs : List Byte) {m : Memory} {a : Nat}, a + bs.length ≤ Memory.size → m.wf = true →
    (m.writeBytes a bs).wf = true
  | [], _, _, _, hm => hm
  | b :: bs, m, a, ha, hm => by
    simp only [List.length_cons] at ha
    exact Memory.writeBytes_wf bs (by omega) (Memory.write_wf b (by omega) hm)

/-- A read after a run of bytes was written: that run's byte inside it, what was there outside. -/
theorem Memory.read_writeBytes : ∀ (bs : List Byte) {m : Memory} {a c : Nat}, a + bs.length ≤ Memory.size → m.wf = true →
    (m.writeBytes a bs).read c = if a ≤ c then (bs[c - a]?).getD (m.read c) else m.read c
  | [], m, a, c, _, _ => by simp [Memory.writeBytes]
  | b :: bs, m, a, c, ha, hm => by
    simp only [List.length_cons] at ha
    rw [Memory.writeBytes, Memory.read_writeBytes bs (by omega) (Memory.write_wf b (by omega) hm), Memory.read_write b c hm]
    rcases Nat.lt_trichotomy c a with h | h | h
    · simp [show ¬ a + 1 ≤ c by omega, show ¬ a ≤ c by omega, show c ≠ a by omega]
    · subst h; simp
    · obtain ⟨k, rfl⟩ : ∃ k, c = a + 1 + k := ⟨c - (a + 1), by omega⟩
      simp [show a ≤ a + 1 + k by omega, show a + 1 + k ≠ a by omega, show a + 1 + k - a = k + 1 by omega]

/-- The addresses of a sector lie in the store. -/
theorem Memory.sector_in_size {k : Nat} (hk : k < cardSectors) : Memory.sectorAddress k 0 + sectorBytes ≤ Memory.size := by
  simp only [Memory.sectorAddress, sectorBytes, Memory.size, cardSectors] at *; omega

/-- `writeSector` answers exactly for a sector of the card (R61). -/
theorem Memory.writeSector_eq_some {m m' : Memory} {k : Nat} {d : Sector} :
    m.writeSector k d = some m' ↔ k < cardSectors ∧ m' = m.writeBytes (Memory.sectorAddress k 0) d.toList := by
  unfold Memory.writeSector; split <;> simp_all [eq_comm]

/-- `readSector` answers exactly for a sector of the card (R61). -/
theorem Memory.readSector_eq_some {m : Memory} {k : Nat} {d : Sector} :
    m.readSector k = some d ↔ k < cardSectors ∧ d = m.sector k := by
  unfold Memory.readSector; split <;> simp_all [eq_comm]

/-- `writeSector` keeps the canonical form. -/
theorem Memory.writeSector_wf {m m' : Memory} {k : Nat} {d : Sector} (hm : m.wf = true) (h : m.writeSector k d = some m') :
    m'.wf = true := by
  obtain ⟨hk, rfl⟩ := Memory.writeSector_eq_some.1 h
  exact Memory.writeBytes_wf _ (by simpa [sectorBytes] using Memory.sector_in_size hk) hm

/-- A byte after `writeSector`. -/
theorem Memory.read_writeSector {m m' : Memory} {k : Nat} {d : Sector} (hm : m.wf = true) (h : m.writeSector k d = some m')
    (c : Nat) :
    m'.read c =
      if Memory.sectorAddress k 0 ≤ c then (d[c - Memory.sectorAddress k 0]?).getD (m.read c) else m.read c := by
  obtain ⟨hk, rfl⟩ := Memory.writeSector_eq_some.1 h
  rw [Memory.read_writeBytes _ (by simpa [sectorBytes] using Memory.sector_in_size hk) hm]
  simp

/-- The sector written reads as what was written (R60). -/
theorem Memory.sector_writeSector_same {m m' : Memory} {k : Nat} {d : Sector} (hm : m.wf = true)
    (h : m.writeSector k d = some m') : m'.sector k = d := by
  refine Vector.ext fun i hi => ?_
  simp only [Memory.sector, Vector.getElem_ofFn, Memory.read_writeSector hm h]
  simp [Memory.sectorAddress, hi]

/-- Every other sector is left alone (R61). -/
theorem Memory.sector_writeSector_other {m m' : Memory} {k j : Nat} {d : Sector} (hm : m.wf = true)
    (h : m.writeSector k d = some m') (hj : j ≠ k) : m'.sector j = m.sector j := by
  refine Vector.ext fun i hi => ?_
  simp only [Memory.sector, Vector.getElem_ofFn, Memory.read_writeSector hm h]
  split
  · rw [Vector.getElem?_eq_none, Option.getD_none]
    simp only [Memory.sectorAddress, sectorBytes] at *; omega
  · rfl

/-- The cells of an image, from an address on. -/
theorem Memory.wfFrom_image (f : Nat → Byte) : ∀ n lo, lo + n ≤ Memory.size →
    Memory.wfFrom lo ((List.range' lo n).flatMap fun a => Memory.cell a (f a)) = true
  | 0, _, _ => rfl
  | n + 1, lo, h => by
    rw [List.range'_succ, List.flatMap_cons]
    exact Memory.wfFrom_cell (Nat.le_refl lo) (by omega) (Memory.wfFrom_image f n (lo + 1) (by omega))

/-- What the cells of an image read as. -/
theorem Memory.read_image (f : Nat → Byte) (c : Nat) : ∀ n lo, lo + n ≤ Memory.size →
    Memory.read ((List.range' lo n).flatMap fun a => Memory.cell a (f a)) c =
      if lo ≤ c ∧ c < lo + n then f c else Memory.unlisted
  | 0, lo, _ => by rw [if_neg (by omega)]; rfl
  | n + 1, lo, h => by
    rw [List.range'_succ, List.flatMap_cons,
      Memory.read_cell (Memory.wfFrom_image f n (lo + 1) (by omega)) (by omega), Memory.read_image f c n (lo + 1) (by omega)]
    rcases Nat.lt_trichotomy c lo with h | h | h
    · rw [if_neg (by omega), if_neg (by omega), if_neg (by omega)]
    · subst h; simp
    · rw [if_neg (by omega)]
      split <;> split <;> first | rfl | omega

/-- The store a run starts with has the canonical form. -/
theorem Memory.ofImage_wf (image : Nat → Nat → Byte) : (Memory.ofImage image).wf = true := by
  unfold Memory.ofImage Memory.wf
  rw [List.range_eq_range']
  exact Memory.wfFrom_image _ _ _ (by omega)

/-- The store a run starts with holds the image. -/
theorem Memory.read_ofImage (image : Nat → Nat → Byte) {k i : Nat} (hk : k < cardSectors) (hi : i < sectorBytes) :
    (Memory.ofImage image).read (Memory.sectorAddress k i) = image k i := by
  unfold Memory.ofImage
  rw [List.range_eq_range', Memory.read_image _ _ _ _ (by omega)]
  have h : Memory.sectorAddress k i < Memory.size := by
    simp only [Memory.sectorAddress, sectorBytes, Memory.size, cardSectors] at *; omega
  rw [if_pos ⟨Nat.zero_le _, by omega⟩]
  simp only [Memory.sectorAddress, sectorBytes] at *
  rw [show (128 * k + i) / 128 = k by omega, show (128 * k + i) % 128 = i by omega]

/-- The store after reset has the canonical form. -/
theorem State.reset_store_wf : State.reset.store.wf = true := Memory.ofImage_wf Config.cardImage

end Sys2Proof.Machine
end

