-- ==== Sys2Proof/Laws/State.lean ====
section
/-! SUPPORT. One lemma per field per update of the state: the shared operations' small facts, so that no proof unfolds a record
update. -/

namespace Sys2Proof.Machine

variable (s : State)

/-! `latch` -/

@[simp] theorem State.latch_mode (resp : Byte) : (s.latch resp).mode = s.mode := rfl
@[simp] theorem State.latch_ctrl (resp : Byte) : (s.latch resp).ctrl = s.ctrl := rfl
@[simp] theorem State.latch_baud (resp : Byte) : (s.latch resp).baud = s.baud := rfl
@[simp] theorem State.latch_rxData (resp : Byte) : (s.latch resp).rxData = resp := rfl
@[simp] theorem State.latch_rxPending (resp : Byte) : (s.latch resp).rxPending = true := rfl
@[simp] theorem State.latch_ack (resp : Byte) : (s.latch resp).ack = s.ack := rfl
@[simp] theorem State.latch_irqTimer (resp : Byte) : (s.latch resp).irqTimer = s.irqTimer := rfl
@[simp] theorem State.latch_irq (resp : Byte) : (s.latch resp).irq = s.irq := rfl
@[simp] theorem State.latch_sel (resp : Byte) : (s.latch resp).sel = s.sel := rfl
@[simp] theorem State.latch_padKind (resp : Byte) : (s.latch resp).padKind = s.padKind := rfl
@[simp] theorem State.latch_pad (resp : Byte) : (s.latch resp).pad = s.pad := rfl
@[simp] theorem State.latch_card (resp : Byte) : (s.latch resp).card = s.card := rfl
@[simp] theorem State.latch_store (resp : Byte) : (s.latch resp).store = s.store := rfl
@[simp] theorem State.latch_input (resp : Byte) : (s.latch resp).input = s.input := rfl
@[simp] theorem State.latch_par (resp : Byte) : (s.latch resp).par = s.par := rfl
@[simp] theorem State.latch_reply (resp : Byte) : (s.latch resp).reply = s.reply := rfl
@[simp] theorem State.latch_pending (resp : Byte) : (s.latch resp).pending = s.pending := rfl

/-! `arm` -/

@[simp] theorem State.arm_mode : s.arm.mode = s.mode := rfl
@[simp] theorem State.arm_ctrl : s.arm.ctrl = s.ctrl := rfl
@[simp] theorem State.arm_baud : s.arm.baud = s.baud := rfl
@[simp] theorem State.arm_rxData : s.arm.rxData = s.rxData := rfl
@[simp] theorem State.arm_rxPending : s.arm.rxPending = s.rxPending := rfl
@[simp] theorem State.arm_ack : s.arm.ack = s.ack := rfl
@[simp] theorem State.arm_irqTimer : s.arm.irqTimer = ackSteps s.par.ackDelay := rfl
@[simp] theorem State.arm_irq : s.arm.irq = s.irq := rfl
@[simp] theorem State.arm_sel : s.arm.sel = s.sel := rfl
@[simp] theorem State.arm_padKind : s.arm.padKind = s.padKind := rfl
@[simp] theorem State.arm_pad : s.arm.pad = s.pad := rfl
@[simp] theorem State.arm_card : s.arm.card = s.card := rfl
@[simp] theorem State.arm_store : s.arm.store = s.store := rfl
@[simp] theorem State.arm_input : s.arm.input = s.input := rfl
@[simp] theorem State.arm_par : s.arm.par = s.par := rfl
@[simp] theorem State.arm_reply : s.arm.reply = s.reply := rfl
@[simp] theorem State.arm_pending : s.arm.pending = s.pending := rfl

/-! `acknowledge` -/

@[simp] theorem State.acknowledge_mode (acked : Bool) : (s.acknowledge acked).mode = s.mode := by
  unfold State.acknowledge; split <;> simp_all [State.arm]
@[simp] theorem State.acknowledge_ctrl (acked : Bool) : (s.acknowledge acked).ctrl = s.ctrl := by
  unfold State.acknowledge; split <;> simp_all [State.arm]
@[simp] theorem State.acknowledge_baud (acked : Bool) : (s.acknowledge acked).baud = s.baud := by
  unfold State.acknowledge; split <;> simp_all [State.arm]
@[simp] theorem State.acknowledge_rxData (acked : Bool) : (s.acknowledge acked).rxData = s.rxData := by
  unfold State.acknowledge; split <;> simp_all [State.arm]
@[simp] theorem State.acknowledge_rxPending (acked : Bool) : (s.acknowledge acked).rxPending = s.rxPending := by
  unfold State.acknowledge; split <;> simp_all [State.arm]
@[simp] theorem State.acknowledge_ack (acked : Bool) : (s.acknowledge acked).ack = acked := by
  unfold State.acknowledge; split <;> simp_all [State.arm]
@[simp] theorem State.acknowledge_irqTimer (acked : Bool) : (s.acknowledge acked).irqTimer = if acked && ctrlAckIe s.ctrl then ackSteps s.par.ackDelay else s.irqTimer := by
  unfold State.acknowledge; split <;> simp_all [State.arm]
@[simp] theorem State.acknowledge_irq (acked : Bool) : (s.acknowledge acked).irq = s.irq := by
  unfold State.acknowledge; split <;> simp_all [State.arm]
@[simp] theorem State.acknowledge_sel (acked : Bool) : (s.acknowledge acked).sel = s.sel := by
  unfold State.acknowledge; split <;> simp_all [State.arm]
@[simp] theorem State.acknowledge_padKind (acked : Bool) : (s.acknowledge acked).padKind = s.padKind := by
  unfold State.acknowledge; split <;> simp_all [State.arm]
@[simp] theorem State.acknowledge_pad (acked : Bool) : (s.acknowledge acked).pad = s.pad := by
  unfold State.acknowledge; split <;> simp_all [State.arm]
@[simp] theorem State.acknowledge_card (acked : Bool) : (s.acknowledge acked).card = s.card := by
  unfold State.acknowledge; split <;> simp_all [State.arm]
@[simp] theorem State.acknowledge_store (acked : Bool) : (s.acknowledge acked).store = s.store := by
  unfold State.acknowledge; split <;> simp_all [State.arm]
@[simp] theorem State.acknowledge_input (acked : Bool) : (s.acknowledge acked).input = s.input := by
  unfold State.acknowledge; split <;> simp_all [State.arm]
@[simp] theorem State.acknowledge_par (acked : Bool) : (s.acknowledge acked).par = s.par := by
  unfold State.acknowledge; split <;> simp_all [State.arm]
@[simp] theorem State.acknowledge_reply (acked : Bool) : (s.acknowledge acked).reply = s.reply := by
  unfold State.acknowledge; split <;> simp_all [State.arm]
@[simp] theorem State.acknowledge_pending (acked : Bool) : (s.acknowledge acked).pending = s.pending := by
  unfold State.acknowledge; split <;> simp_all [State.arm]

/-! `tick` -/

@[simp] theorem State.tick_mode : s.tick.mode = s.mode := by
  unfold State.tick; split <;> simp_all
@[simp] theorem State.tick_ctrl : s.tick.ctrl = s.ctrl := by
  unfold State.tick; split <;> simp_all
@[simp] theorem State.tick_baud : s.tick.baud = s.baud := by
  unfold State.tick; split <;> simp_all
@[simp] theorem State.tick_rxData : s.tick.rxData = s.rxData := by
  unfold State.tick; split <;> simp_all
@[simp] theorem State.tick_rxPending : s.tick.rxPending = s.rxPending := by
  unfold State.tick; split <;> simp_all
@[simp] theorem State.tick_ack : s.tick.ack = s.ack := by
  unfold State.tick; split <;> simp_all
@[simp] theorem State.tick_irqTimer : s.tick.irqTimer = s.irqTimer - 1 := by
  unfold State.tick; split <;> simp_all
@[simp] theorem State.tick_irq : s.tick.irq = if s.irqTimer = 1 then true else s.irq := by
  unfold State.tick; split
  · simp only [show s.irqTimer - 1 = 0 ↔ s.irqTimer = 1 by omega]
  · rw [if_neg (by omega)]
@[simp] theorem State.tick_sel : s.tick.sel = s.sel := by
  unfold State.tick; split <;> simp_all
@[simp] theorem State.tick_padKind : s.tick.padKind = s.padKind := by
  unfold State.tick; split <;> simp_all
@[simp] theorem State.tick_pad : s.tick.pad = s.pad := by
  unfold State.tick; split <;> simp_all
@[simp] theorem State.tick_card : s.tick.card = s.card := by
  unfold State.tick; split <;> simp_all
@[simp] theorem State.tick_store : s.tick.store = s.store := by
  unfold State.tick; split <;> simp_all
@[simp] theorem State.tick_input : s.tick.input = s.input := by
  unfold State.tick; split <;> simp_all
@[simp] theorem State.tick_par : s.tick.par = s.par := by
  unfold State.tick; split <;> simp_all
@[simp] theorem State.tick_reply : s.tick.reply = s.reply := by
  unfold State.tick; split <;> simp_all
@[simp] theorem State.tick_pending : s.tick.pending = s.pending := by
  unfold State.tick; split <;> simp_all

/-! `advance` -/

@[simp] theorem State.advance_mode (n : Nat) : (s.advance n).mode = s.mode := by
  unfold State.advance; split <;> (try split) <;> simp_all
@[simp] theorem State.advance_ctrl (n : Nat) : (s.advance n).ctrl = s.ctrl := by
  unfold State.advance; split <;> (try split) <;> simp_all
@[simp] theorem State.advance_baud (n : Nat) : (s.advance n).baud = s.baud := by
  unfold State.advance; split <;> (try split) <;> simp_all
@[simp] theorem State.advance_rxData (n : Nat) : (s.advance n).rxData = s.rxData := by
  unfold State.advance; split <;> (try split) <;> simp_all
@[simp] theorem State.advance_rxPending (n : Nat) : (s.advance n).rxPending = s.rxPending := by
  unfold State.advance; split <;> (try split) <;> simp_all
@[simp] theorem State.advance_ack (n : Nat) : (s.advance n).ack = s.ack := by
  unfold State.advance; split <;> (try split) <;> simp_all
@[simp] theorem State.advance_irqTimer (n : Nat) : (s.advance n).irqTimer = s.irqTimer - n := by
  unfold State.advance; split <;> (try split) <;> simp_all
@[simp] theorem State.advance_sel (n : Nat) : (s.advance n).sel = s.sel := by
  unfold State.advance; split <;> (try split) <;> simp_all
@[simp] theorem State.advance_padKind (n : Nat) : (s.advance n).padKind = s.padKind := by
  unfold State.advance; split <;> (try split) <;> simp_all
@[simp] theorem State.advance_pad (n : Nat) : (s.advance n).pad = s.pad := by
  unfold State.advance; split <;> (try split) <;> simp_all
@[simp] theorem State.advance_card (n : Nat) : (s.advance n).card = s.card := by
  unfold State.advance; split <;> (try split) <;> simp_all
@[simp] theorem State.advance_store (n : Nat) : (s.advance n).store = s.store := by
  unfold State.advance; split <;> (try split) <;> simp_all
@[simp] theorem State.advance_input (n : Nat) : (s.advance n).input = s.input := by
  unfold State.advance; split <;> (try split) <;> simp_all
@[simp] theorem State.advance_par (n : Nat) : (s.advance n).par = s.par := by
  unfold State.advance; split <;> (try split) <;> simp_all
@[simp] theorem State.advance_reply (n : Nat) : (s.advance n).reply = s.reply := by
  unfold State.advance; split <;> (try split) <;> simp_all
@[simp] theorem State.advance_pending (n : Nat) : (s.advance n).pending = s.pending := by
  unfold State.advance; split <;> (try split) <;> simp_all

/-! `clearIrq` -/

@[simp] theorem State.clearIrq_mode : s.clearIrq.mode = s.mode := rfl
@[simp] theorem State.clearIrq_ctrl : s.clearIrq.ctrl = s.ctrl := rfl
@[simp] theorem State.clearIrq_baud : s.clearIrq.baud = s.baud := rfl
@[simp] theorem State.clearIrq_rxData : s.clearIrq.rxData = s.rxData := rfl
@[simp] theorem State.clearIrq_rxPending : s.clearIrq.rxPending = s.rxPending := rfl
@[simp] theorem State.clearIrq_ack : s.clearIrq.ack = s.ack := rfl
@[simp] theorem State.clearIrq_irqTimer : s.clearIrq.irqTimer = s.irqTimer := rfl
@[simp] theorem State.clearIrq_irq : s.clearIrq.irq = false := rfl
@[simp] theorem State.clearIrq_sel : s.clearIrq.sel = s.sel := rfl
@[simp] theorem State.clearIrq_padKind : s.clearIrq.padKind = s.padKind := rfl
@[simp] theorem State.clearIrq_pad : s.clearIrq.pad = s.pad := rfl
@[simp] theorem State.clearIrq_card : s.clearIrq.card = s.card := rfl
@[simp] theorem State.clearIrq_store : s.clearIrq.store = s.store := rfl
@[simp] theorem State.clearIrq_input : s.clearIrq.input = s.input := rfl
@[simp] theorem State.clearIrq_par : s.clearIrq.par = s.par := rfl
@[simp] theorem State.clearIrq_reply : s.clearIrq.reply = s.reply := rfl
@[simp] theorem State.clearIrq_pending : s.clearIrq.pending = s.pending := rfl

/-! `deselect` -/

@[simp] theorem State.deselect_mode : s.deselect.mode = s.mode := rfl
@[simp] theorem State.deselect_ctrl : s.deselect.ctrl = s.ctrl := rfl
@[simp] theorem State.deselect_baud : s.deselect.baud = s.baud := rfl
@[simp] theorem State.deselect_rxData : s.deselect.rxData = s.rxData := rfl
@[simp] theorem State.deselect_rxPending : s.deselect.rxPending = s.rxPending := rfl
@[simp] theorem State.deselect_ack : s.deselect.ack = s.ack := rfl
@[simp] theorem State.deselect_irqTimer : s.deselect.irqTimer = s.irqTimer := rfl
@[simp] theorem State.deselect_irq : s.deselect.irq = s.irq := rfl
@[simp] theorem State.deselect_sel : s.deselect.sel = Selection.none := rfl
@[simp] theorem State.deselect_padKind : s.deselect.padKind = s.padKind := rfl
@[simp] theorem State.deselect_pad : s.deselect.pad = s.pad := rfl
@[simp] theorem State.deselect_card : s.deselect.card = s.card := rfl
@[simp] theorem State.deselect_store : s.deselect.store = s.store := rfl
@[simp] theorem State.deselect_input : s.deselect.input = s.input := rfl
@[simp] theorem State.deselect_par : s.deselect.par = s.par := rfl
@[simp] theorem State.deselect_reply : s.deselect.reply = s.reply := rfl
@[simp] theorem State.deselect_pending : s.deselect.pending = s.pending := rfl

/-! `resetEngine` -/

@[simp] theorem State.resetEngine_mode : s.resetEngine.mode = 0x0000#16 := rfl
@[simp] theorem State.resetEngine_ctrl : s.resetEngine.ctrl = 0x0000#16 := rfl
@[simp] theorem State.resetEngine_baud : s.resetEngine.baud = 0x0000#16 := rfl
@[simp] theorem State.resetEngine_rxData : s.resetEngine.rxData = Config.idle := rfl
@[simp] theorem State.resetEngine_rxPending : s.resetEngine.rxPending = false := rfl
@[simp] theorem State.resetEngine_ack : s.resetEngine.ack = false := rfl
@[simp] theorem State.resetEngine_irqTimer : s.resetEngine.irqTimer = 0 := rfl
@[simp] theorem State.resetEngine_irq : s.resetEngine.irq = false := rfl
@[simp] theorem State.resetEngine_sel : s.resetEngine.sel = Selection.none := rfl
@[simp] theorem State.resetEngine_padKind : s.resetEngine.padKind = s.padKind := rfl
@[simp] theorem State.resetEngine_pad : s.resetEngine.pad = s.pad := rfl
@[simp] theorem State.resetEngine_card : s.resetEngine.card = s.card := rfl
@[simp] theorem State.resetEngine_store : s.resetEngine.store = s.store := rfl
@[simp] theorem State.resetEngine_input : s.resetEngine.input = s.input := rfl
@[simp] theorem State.resetEngine_par : s.resetEngine.par = s.par := rfl
@[simp] theorem State.resetEngine_reply : s.resetEngine.reply = s.reply := rfl
@[simp] theorem State.resetEngine_pending : s.resetEngine.pending = s.pending := rfl

/-! `answer` -/

@[simp] theorem State.answer_mode (rdata : BusReply) : (s.answer rdata).mode = s.mode := rfl
@[simp] theorem State.answer_ctrl (rdata : BusReply) : (s.answer rdata).ctrl = s.ctrl := rfl
@[simp] theorem State.answer_baud (rdata : BusReply) : (s.answer rdata).baud = s.baud := rfl
@[simp] theorem State.answer_rxData (rdata : BusReply) : (s.answer rdata).rxData = s.rxData := rfl
@[simp] theorem State.answer_rxPending (rdata : BusReply) : (s.answer rdata).rxPending = s.rxPending := rfl
@[simp] theorem State.answer_ack (rdata : BusReply) : (s.answer rdata).ack = s.ack := rfl
@[simp] theorem State.answer_irqTimer (rdata : BusReply) : (s.answer rdata).irqTimer = s.irqTimer := rfl
@[simp] theorem State.answer_irq (rdata : BusReply) : (s.answer rdata).irq = s.irq := rfl
@[simp] theorem State.answer_sel (rdata : BusReply) : (s.answer rdata).sel = s.sel := rfl
@[simp] theorem State.answer_padKind (rdata : BusReply) : (s.answer rdata).padKind = s.padKind := rfl
@[simp] theorem State.answer_pad (rdata : BusReply) : (s.answer rdata).pad = s.pad := rfl
@[simp] theorem State.answer_card (rdata : BusReply) : (s.answer rdata).card = s.card := rfl
@[simp] theorem State.answer_store (rdata : BusReply) : (s.answer rdata).store = s.store := rfl
@[simp] theorem State.answer_input (rdata : BusReply) : (s.answer rdata).input = s.input := rfl
@[simp] theorem State.answer_par (rdata : BusReply) : (s.answer rdata).par = s.par := rfl
@[simp] theorem State.answer_reply (rdata : BusReply) : (s.answer rdata).reply = rdata := rfl
@[simp] theorem State.answer_pending (rdata : BusReply) : (s.answer rdata).pending = s.pending := rfl

/-! `replacePad` -/

@[simp] theorem State.replacePad_mode (kind : PadKind) : (s.replacePad kind).mode = s.mode := rfl
@[simp] theorem State.replacePad_ctrl (kind : PadKind) : (s.replacePad kind).ctrl = s.ctrl := rfl
@[simp] theorem State.replacePad_baud (kind : PadKind) : (s.replacePad kind).baud = s.baud := rfl
@[simp] theorem State.replacePad_rxData (kind : PadKind) : (s.replacePad kind).rxData = s.rxData := rfl
@[simp] theorem State.replacePad_rxPending (kind : PadKind) : (s.replacePad kind).rxPending = s.rxPending := rfl
@[simp] theorem State.replacePad_ack (kind : PadKind) : (s.replacePad kind).ack = s.ack := rfl
@[simp] theorem State.replacePad_irqTimer (kind : PadKind) : (s.replacePad kind).irqTimer = s.irqTimer := rfl
@[simp] theorem State.replacePad_irq (kind : PadKind) : (s.replacePad kind).irq = s.irq := rfl
@[simp] theorem State.replacePad_sel (kind : PadKind) : (s.replacePad kind).sel = if s.sel = .controller then .none else s.sel := rfl
@[simp] theorem State.replacePad_padKind (kind : PadKind) : (s.replacePad kind).padKind = kind := rfl
@[simp] theorem State.replacePad_pad (kind : PadKind) : (s.replacePad kind).pad = Pad.initial := rfl
@[simp] theorem State.replacePad_card (kind : PadKind) : (s.replacePad kind).card = s.card := rfl
@[simp] theorem State.replacePad_store (kind : PadKind) : (s.replacePad kind).store = s.store := rfl
@[simp] theorem State.replacePad_input (kind : PadKind) : (s.replacePad kind).input = s.input := rfl
@[simp] theorem State.replacePad_par (kind : PadKind) : (s.replacePad kind).par = s.par := rfl
@[simp] theorem State.replacePad_reply (kind : PadKind) : (s.replacePad kind).reply = s.reply := rfl
@[simp] theorem State.replacePad_pending (kind : PadKind) : (s.replacePad kind).pending = s.pending := rfl

/-! `replaceCard` -/

@[simp] theorem State.replaceCard_mode : s.replaceCard.mode = s.mode := rfl
@[simp] theorem State.replaceCard_ctrl : s.replaceCard.ctrl = s.ctrl := rfl
@[simp] theorem State.replaceCard_baud : s.replaceCard.baud = s.baud := rfl
@[simp] theorem State.replaceCard_rxData : s.replaceCard.rxData = s.rxData := rfl
@[simp] theorem State.replaceCard_rxPending : s.replaceCard.rxPending = s.rxPending := rfl
@[simp] theorem State.replaceCard_ack : s.replaceCard.ack = s.ack := rfl
@[simp] theorem State.replaceCard_irqTimer : s.replaceCard.irqTimer = s.irqTimer := rfl
@[simp] theorem State.replaceCard_irq : s.replaceCard.irq = s.irq := rfl
@[simp] theorem State.replaceCard_sel : s.replaceCard.sel = if s.sel = .memoryCard then .none else s.sel := rfl
@[simp] theorem State.replaceCard_padKind : s.replaceCard.padKind = s.padKind := rfl
@[simp] theorem State.replaceCard_pad : s.replaceCard.pad = s.pad := rfl
@[simp] theorem State.replaceCard_card : s.replaceCard.card = Card.initial := rfl
@[simp] theorem State.replaceCard_store : s.replaceCard.store = s.store := rfl
@[simp] theorem State.replaceCard_input : s.replaceCard.input = s.input := rfl
@[simp] theorem State.replaceCard_par : s.replaceCard.par = s.par := rfl
@[simp] theorem State.replaceCard_reply : s.replaceCard.reply = s.reply := rfl
@[simp] theorem State.replaceCard_pending : s.replaceCard.pending = s.pending := rfl

/-! `addressPhase` -/

@[simp] theorem State.addressPhase_mode (b : Byte) : (s.addressPhase b).mode = s.mode := by
  unfold State.addressPhase; split <;> rfl
@[simp] theorem State.addressPhase_ctrl (b : Byte) : (s.addressPhase b).ctrl = s.ctrl := by
  unfold State.addressPhase; split <;> rfl
@[simp] theorem State.addressPhase_baud (b : Byte) : (s.addressPhase b).baud = s.baud := by
  unfold State.addressPhase; split <;> rfl
@[simp] theorem State.addressPhase_rxData (b : Byte) : (s.addressPhase b).rxData = s.rxData := by
  unfold State.addressPhase; split <;> rfl
@[simp] theorem State.addressPhase_rxPending (b : Byte) : (s.addressPhase b).rxPending = s.rxPending := by
  unfold State.addressPhase; split <;> rfl
@[simp] theorem State.addressPhase_ack (b : Byte) : (s.addressPhase b).ack = s.ack := by
  unfold State.addressPhase; split <;> rfl
@[simp] theorem State.addressPhase_irqTimer (b : Byte) : (s.addressPhase b).irqTimer = s.irqTimer := by
  unfold State.addressPhase; split <;> rfl
@[simp] theorem State.addressPhase_irq (b : Byte) : (s.addressPhase b).irq = s.irq := by
  unfold State.addressPhase; split <;> rfl
@[simp] theorem State.addressPhase_padKind (b : Byte) : (s.addressPhase b).padKind = s.padKind := by
  unfold State.addressPhase; split <;> rfl
@[simp] theorem State.addressPhase_store (b : Byte) : (s.addressPhase b).store = s.store := by
  unfold State.addressPhase; split <;> rfl
@[simp] theorem State.addressPhase_input (b : Byte) : (s.addressPhase b).input = s.input := by
  unfold State.addressPhase; split <;> rfl
@[simp] theorem State.addressPhase_par (b : Byte) : (s.addressPhase b).par = s.par := by
  unfold State.addressPhase; split <;> rfl
@[simp] theorem State.addressPhase_reply (b : Byte) : (s.addressPhase b).reply = s.reply := by
  unfold State.addressPhase; split <;> rfl
@[simp] theorem State.addressPhase_pending (b : Byte) : (s.addressPhase b).pending = s.pending := by
  unfold State.addressPhase; split <;> rfl

/-! `endTest` -/

@[simp] theorem State.endTest_mode : s.endTest.mode = s.mode := by
  unfold State.endTest; split <;> (try split) <;> simp_all
@[simp] theorem State.endTest_ctrl : s.endTest.ctrl = s.ctrl := by
  unfold State.endTest; split <;> (try split) <;> simp_all
@[simp] theorem State.endTest_baud : s.endTest.baud = s.baud := by
  unfold State.endTest; split <;> (try split) <;> simp_all
@[simp] theorem State.endTest_rxData : s.endTest.rxData = s.rxData := by
  unfold State.endTest; split <;> (try split) <;> simp_all
@[simp] theorem State.endTest_rxPending : s.endTest.rxPending = s.rxPending := by
  unfold State.endTest; split <;> (try split) <;> simp_all
@[simp] theorem State.endTest_ack : s.endTest.ack = s.ack := by
  unfold State.endTest; split <;> (try split) <;> simp_all
@[simp] theorem State.endTest_irqTimer : s.endTest.irqTimer = s.irqTimer := by
  unfold State.endTest; split <;> (try split) <;> simp_all
@[simp] theorem State.endTest_irq : s.endTest.irq = s.irq := by
  unfold State.endTest; split <;> (try split) <;> simp_all
@[simp] theorem State.endTest_padKind : s.endTest.padKind = s.padKind := by
  unfold State.endTest; split <;> (try split) <;> simp_all
@[simp] theorem State.endTest_pad : s.endTest.pad = s.pad := by
  unfold State.endTest; split <;> (try split) <;> simp_all
@[simp] theorem State.endTest_card : s.endTest.card = s.card := by
  unfold State.endTest; split <;> (try split) <;> simp_all
@[simp] theorem State.endTest_store : s.endTest.store = s.store := by
  unfold State.endTest; split <;> (try split) <;> simp_all
@[simp] theorem State.endTest_input : s.endTest.input = s.input := by
  unfold State.endTest; split <;> (try split) <;> simp_all
@[simp] theorem State.endTest_par : s.endTest.par = s.par := by
  unfold State.endTest; split <;> (try split) <;> simp_all
@[simp] theorem State.endTest_reply : s.endTest.reply = s.reply := by
  unfold State.endTest; split <;> (try split) <;> simp_all
@[simp] theorem State.endTest_pending : s.endTest.pending = s.pending := by
  unfold State.endTest; split <;> (try split) <;> simp_all

/-! What the conditional updates write. -/

theorem State.addressPhase_of_none (b : Byte) (h : s.sel = .none) :
    s.addressPhase b =
      { s with
        pad := { s.pad with stage := 0 }
        card := { s.card with stage := 0, cmd := .noCmd }
        sel := resolve b } := by
  simp [State.addressPhase, h]

theorem State.addressPhase_of_some (b : Byte) (h : s.sel ≠ .none) : s.addressPhase b = s := by
  simp [State.addressPhase, h]

theorem State.endTest_sel :
    s.endTest.sel =
      if (s.sel = .controller ∧ s.pad.stage = 0) ∨ (s.sel = .memoryCard ∧ s.card.stage = 0) then .none else s.sel := by
  unfold State.endTest; split <;> (try split) <;> simp_all

theorem State.advance_irq (n : Nat) :
    (s.advance n).irq = (s.irq || (decide (0 < s.irqTimer) && decide (s.irqTimer ≤ n))) := by
  unfold State.advance; split
  · simp_all
  · split
    · rename_i h1 h2; simp; omega
    · rename_i h1 h2; simp; omega

/-! The turns. -/

@[simp] theorem State.noDevice_resp : s.noDevice.resp = Config.idle := rfl
@[simp] theorem State.noDevice_acked : s.noDevice.acked = false := rfl
@[simp] theorem State.noDevice_cond : s.noDevice.cond = some .noDevice := rfl
@[simp] theorem State.noDevice_st : s.noDevice.st = { s with sel := .none } := rfl
@[simp] theorem Row.resp_accept (r : Byte) (n : Nat) : (Row.accept r n).resp = r := rfl
@[simp] theorem Row.resp_reject (w : Option Condition) : (Row.reject w).resp = Config.idle := rfl
@[simp] theorem Row.next_accept (r : Byte) (n : Nat) : (Row.accept r n).next = n := rfl
@[simp] theorem Row.next_reject (w : Option Condition) : (Row.reject w).next = 0 := rfl
@[simp] theorem Row.accepted_accept (r : Byte) (n : Nat) : (Row.accept r n).accepted = true := rfl
@[simp] theorem Row.accepted_reject (w : Option Condition) : (Row.reject w).accepted = false := rfl

end Sys2Proof.Machine
end

