-- ==== Sys2Proof/Laws/Exchange.lean ====
section
/-! SUPPORT. What each shared operation can do, said once: if it answers, then one of these cases holds. -/

namespace Sys2Proof.Machine

/-! The acknowledge policy (R119). -/

/-- A byte that was not accepted is never acknowledged. -/
@[simp] theorem policyAcks_rejected (p : AckPolicy) (k : DeviceKind) (m n : Nat) : policyAcks p k m false n = false := rfl

theorem policyAcks_default (k : DeviceKind) (m n : Nat) (a : Bool) : policyAcks .default k m a n = (a && n != 0) := rfl

theorem policyAcks_every (k : DeviceKind) (m n : Nat) (a : Bool) : policyAcks .every k m a n = a := by
  simp [policyAcks]

theorem policyAcks_mouseSilent_mouse (m n : Nat) (a : Bool) : policyAcks .mouseSilent .mouse m a n = false := by
  simp [policyAcks]

/-- Any choice of accepted transitions to acknowledge, on any finite set of them, is a policy of the model. -/
theorem policyAcks_table_represents (f : AckRow → Bool) (rows : List AckRow) :
    ∃ p, ∀ r ∈ rows, policyAcks p r.kind r.before true r.after = f r := by
  refine ⟨.table (rows.filter f), fun r hr => ?_⟩
  cases h : f r <;> simp_all [policyAcks]

/-! The exchange (R110). -/

/-- `handleByte` answers the finished turn of its exchange. -/
theorem State.handleByte_next {s t : State} {b : Byte} (h : s.handleByte b = .next t) :
    ∃ u, s.exchange b = .ok u ∧ t = u.finish := by
  unfold State.handleByte at h
  cases hx : s.exchange b with
  | ok u => rw [hx] at h; exact ⟨u, rfl, by injection h with e; exact e.symm⟩
  | error r => rw [hx] at h; cases h

/-- A DATA write drops its byte with TXEN 0 and otherwise is a finished exchange. -/
theorem State.transmit_next {s t : State} {b : Byte} (h : s.transmit b = .next t) :
    (ctrlTxen s.ctrl = false ∧ t = s) ∨ (ctrlTxen s.ctrl = true ∧ ∃ u, s.exchange b = .ok u ∧ t = u.finish) := by
  unfold State.transmit at h
  cases hx : ctrlTxen s.ctrl with
  | false => rw [hx] at h; left; exact ⟨rfl, by injection h with e; exact e.symm⟩
  | true => rw [hx] at h; right; exact ⟨rfl, State.handleByte_next h⟩

/-- Steps 1 to 3: no device by the gate, no device by the address, the pad, or the card. -/
theorem State.exchange_cases {s : State} {b : Byte} {u : Turn} (h : s.exchange b = .ok u) :
    (gateClosed s.ctrl = true ∧ u = s.noDevice) ∨
    (gateClosed s.ctrl = false ∧ (s.addressPhase b).sel = .none ∧ u = (s.addressPhase b).noDevice) ∨
    (gateClosed s.ctrl = false ∧ (s.addressPhase b).sel = .controller ∧ u = (s.addressPhase b).padTurn b) ∨
    (gateClosed s.ctrl = false ∧ (s.addressPhase b).sel = .memoryCard ∧ (s.addressPhase b).cardTurn b = .ok u) := by
  unfold State.exchange at h
  split at h
  · rename_i hg; left; exact ⟨hg, by injection h with e; exact e.symm⟩
  · rename_i hg
    have hg : gateClosed s.ctrl = false := by simpa using hg
    right
    unfold State.deviceTurn at h
    split at h
    · rename_i hs; left; exact ⟨hg, hs, by injection h with e; exact e.symm⟩
    · rename_i hs; right; left; exact ⟨hg, hs, by injection h with e; exact e.symm⟩
    · rename_i hs; right; right; exact ⟨hg, hs, h⟩

/-- The card's turn inside an exchange is its handler's. -/
theorem State.cardTurn_ok {s : State} {b : Byte} {u : Turn} (h : s.cardTurn b = .ok u) :
    ∃ t, Machine.cardTurn s.card s.store b = .ok t ∧
      u.st = { s with card := t.after s.card.stage, store := t.store } ∧
      u.resp = t.row.resp ∧ u.acked = t.row.acked s.par.ackPolicy .card s.card.stage ∧ u.cond = t.row.condition := by
  unfold State.cardTurn handleCard at h
  cases ht : Machine.cardTurn s.card s.store b with
  | error r => simp [ht] at h
  | ok t =>
    refine ⟨t, rfl, ?_⟩
    simp only [ht] at h
    injection h with e
    subst e
    simp [cardCondition, ht]

/-- Steps 4 to 6 in one record: the end test, the latch, acknowledge and arm. -/
theorem Turn.finish_eq (t : Turn) : t.finish = t.st.endTest.answered t.resp t.acked := by
  unfold Turn.finish State.acknowledge State.answered
  simp only [State.latch_ctrl, State.endTest_ctrl]
  split <;> rfl

/-! The card's handler (R170). -/

/-- The store is untouched but by the commit of a write at stage 134 (R170, R185). -/
theorem cardTurn_store {c : Card} {m : Memory} {b : Byte} {t : CardTurn} (h : cardTurn c m b = .ok t) :
    t.store = m ∨
    (c.cmd = .write ∧ c.stage = 134 ∧ b = c.chk ∧ m.writeSector c.addr c.buf = some t.store) := by
  unfold cardTurn at h
  split at h
  · injection h with e; subst e; exact .inl rfl
  · injection h with e; subst e; unfold cardCommand; split <;> (try split) <;> exact .inl rfl
  · split at h
    · injection h with e; subst e; exact .inl rfl
    · rename_i hc
      split at h
      · injection h with e; subst e; exact .inl rfl
      · injection h with e; subst e; exact .inl rfl
      · injection h with e; subst e; exact .inl rfl
      · unfold cardAddressLow at h
        simp only at h
        split at h
        · split at h
          · split at h
            · injection h with e; subst e; exact .inl rfl
            · cases h
          · injection h with e; subst e; exact .inl rfl
        · injection h with e; subst e; exact .inl rfl
      · split at h
        · injection h with e; subst e; exact .inl rfl
        · rename_i hr
          unfold cardWriteTurn at h
          split at h
          · injection h with e; subst e; exact .inl rfl
          · split at h
            · rename_i h134
              unfold cardCommit at h
              split at h
              · rename_i hb
                split at h
                · rename_i hw
                  injection h with e; subst e
                  refine .inr ⟨?_, h134, hb, hw⟩
                  cases hcmd : c.cmd <;> simp_all
                · cases h
              · injection h with e; subst e; exact .inl rfl
            · (repeat' split at h) <;> (injection h with e; subst e; exact .inl rfl)

/-- The handler answers in every state whose address is in range where a commit needs it (R121, U13). -/
theorem cardTurn_answers {c : Card} (m : Memory) (b : Byte) (h : c.stage = 134 → c.addr < cardSectors) :
    ∃ t, cardTurn c m b = .ok t := by
  unfold cardTurn
  split
  · exact ⟨_, rfl⟩
  · exact ⟨_, rfl⟩
  · split
    · exact ⟨_, rfl⟩
    · split
      · exact ⟨_, rfl⟩
      · exact ⟨_, rfl⟩
      · exact ⟨_, rfl⟩
      · unfold cardAddressLow
        simp only
        split
        · rename_i ha
          split
          · rw [Memory.readSector, if_pos ha]; exact ⟨_, rfl⟩
          · exact ⟨_, rfl⟩
        · exact ⟨_, rfl⟩
      · split
        · exact ⟨_, rfl⟩
        · unfold cardWriteTurn
          split
          · exact ⟨_, rfl⟩
          · split
            · rename_i h134
              unfold cardCommit
              split
              · rw [Memory.writeSector, if_pos (h h134)]; exact ⟨_, rfl⟩
              · exact ⟨_, rfl⟩
            · (repeat' split) <;> exact ⟨_, rfl⟩

/-- An exchange answers in every state whose card holds an address in range where a commit needs it. -/
theorem State.exchange_answers {s : State} (b : Byte) (h : s.card.stage = 134 → s.card.addr < cardSectors) :
    ∃ u, s.exchange b = .ok u := by
  unfold State.exchange
  split
  · exact ⟨_, rfl⟩
  · unfold State.deviceTurn
    split
    · exact ⟨_, rfl⟩
    · exact ⟨_, rfl⟩
    · have hc : (s.addressPhase b).card.stage = 134 → (s.addressPhase b).card.addr < cardSectors := by
        unfold State.addressPhase
        split
        · intro h0; simp at h0
        · exact h
      obtain ⟨t, ht⟩ := cardTurn_answers (s.addressPhase b).store b hc
      unfold State.cardTurn handleCard
      rw [ht]
      exact ⟨_, rfl⟩

end Sys2Proof.Machine
end

