-- ==== Sys2Proof/Laws/Devices.lean ====
section
/-! SUPPORT. The shared facts of an exchange with an addressed device: which instructions are exchanges, what an exchange
never touches, and the state after a pad's or the card's turn from the row of its table. -/

namespace Sys2Proof.Machine

/-! The buffer (R36). -/

theorem Card.bufAt_eq (c : Card) {n : Nat} (h : n < 128) : c.bufAt n = c.buf[n] := by
  rw [Card.bufAt, Vector.getElem?_eq_getElem h, Option.getD_some]

theorem Card.staged_eq (c : Card) {n : Nat} (b : Byte) (h : n < 128) : c.staged n b = { c with buf := c.buf.set n b } := by
  simp only [Card.staged, Card.mk.injEq, true_and, and_true]
  refine Vector.ext fun j hj => ?_
  simp [Vector.getElem_set, Vector.getElem_setIfInBounds]

@[simp] theorem Card.staged_stage (c : Card) (n : Nat) (b : Byte) : (c.staged n b).stage = c.stage := rfl
@[simp] theorem Card.staged_cmd (c : Card) (n : Nat) (b : Byte) : (c.staged n b).cmd = c.cmd := rfl
@[simp] theorem Card.staged_addrHi (c : Card) (n : Nat) (b : Byte) : (c.staged n b).addrHi = c.addrHi := rfl
@[simp] theorem Card.staged_addrLo (c : Card) (n : Nat) (b : Byte) : (c.staged n b).addrLo = c.addrLo := rfl
@[simp] theorem Card.staged_fresh (c : Card) (n : Nat) (b : Byte) : (c.staged n b).fresh = c.fresh := rfl
@[simp] theorem Card.idle_stage (c : Card) : c.idle.stage = 0 := rfl
@[simp] theorem Card.idle_cmd (c : Card) : c.idle.cmd = .noCmd := rfl
@[simp] theorem Card.idle_addrHi (c : Card) : c.idle.addrHi = c.addrHi := rfl
@[simp] theorem Card.idle_addrLo (c : Card) : c.idle.addrLo = c.addrLo := rfl
@[simp] theorem Card.idle_buf (c : Card) : c.idle.buf = c.buf := rfl
@[simp] theorem Card.idle_fresh (c : Card) : c.idle.fresh = c.fresh := rfl

/-- The sector address is the high byte times 256 plus the low byte (R74). -/
theorem sectorIndex_eq (hi lo : Byte) : sectorIndex hi lo = 256 * hi.toNat + lo.toNat := by
  have h1 := lo.isLt
  simp only [sectorIndex, BitVec.toNat_append]
  rw [← Nat.shiftLeft_add_eq_or_of_lt h1, Nat.shiftLeft_eq]
  omega

/-! Which instructions are exchanges. -/

/-- An instruction that carries a byte is the DATA write of it (log entry 11). -/
theorem exec_of_serialByte {i : Instr} {b : Byte} (h : serialByteOf i = some b) (s : State) : exec i s = s.transmit b := by
  cases i <;> simp [serialByteOf] at h <;> subst h <;> rfl

/-- An open line has TXEN 1 and an open gate. -/
theorem lineOpen_eq {c : Half} (h : lineOpen c = true) : ctrlTxen c = true ∧ gateClosed c = false := by
  simpa [lineOpen] using h

/-! What an exchange never touches. -/

/-- The fields no exchange writes before its last steps (R110). -/
theorem State.exchange_frame {s : State} {b : Byte} {u : Turn} (h : s.exchange b = .ok u) :
    u.st.par = s.par ∧ u.st.pending = s.pending ∧ u.st.irq = s.irq ∧ u.st.irqTimer = s.irqTimer ∧
      u.st.mode = s.mode ∧ u.st.ctrl = s.ctrl ∧ u.st.baud = s.baud ∧ u.st.padKind = s.padKind ∧
      u.st.input = s.input ∧ u.st.reply = s.reply := by
  rcases State.exchange_cases h with ⟨_, rfl⟩ | ⟨_, _, rfl⟩ | ⟨_, _, rfl⟩ | ⟨_, _, hc⟩
  · simp
  · simp
  · simp [State.padTurn]
  · obtain ⟨t, _, h2, _⟩ := State.cardTurn_ok hc
    simp [h2]

/-- The fields steps 4 to 6 leave alone (R114 to R116). -/
theorem Turn.finish_frame (u : Turn) :
    u.finish.par = u.st.par ∧ u.finish.pending = u.st.pending ∧ u.finish.irq = u.st.irq ∧ u.finish.mode = u.st.mode ∧
      u.finish.ctrl = u.st.ctrl ∧ u.finish.baud = u.st.baud ∧ u.finish.padKind = u.st.padKind ∧
      u.finish.input = u.st.input ∧ u.finish.reply = u.st.reply ∧ u.finish.store = u.st.store ∧
      u.finish.pad = u.st.pad ∧ u.finish.card = u.st.card := by
  simp [Turn.finish]

/-- The fields no DATA write writes. -/
theorem State.transmit_frame {s t : State} {b : Byte} (h : s.transmit b = .next t) :
    t.par = s.par ∧ t.pending = s.pending ∧ t.irq = s.irq ∧ t.mode = s.mode ∧ t.ctrl = s.ctrl ∧ t.baud = s.baud ∧
      t.padKind = s.padKind ∧ t.input = s.input ∧ t.reply = s.reply := by
  rcases State.transmit_next h with ⟨_, rfl⟩ | ⟨_, u, hu, rfl⟩
  · simp
  · have h1 := State.exchange_frame hu
    have h2 := Turn.finish_frame u
    simp_all

/-! The exchange with an addressed device. -/

/-- A byte on an open line to an addressed pad is the pad's turn. -/
theorem State.transmit_pad {s : State} (b : Byte) (ho : lineOpen s.ctrl = true) (hs : s.sel = .controller) :
    s.transmit b = .next (s.padTurn b).finish := by
  obtain ⟨h1, h2⟩ := lineOpen_eq ho
  simp [State.transmit, h1, State.handleByte, State.exchange, h2, State.addressPhase_of_some s b (by simp [hs]),
    State.deviceTurn, hs]

/-- The state after a pad's turn, from the row of its table. -/
theorem State.padTurn_finish {s : State} {b : Byte} (hs : s.sel = .controller) (r : Row) (m : Bool)
    (hr : handlePad s.par.ackPolicy s.padKind s.pad s.input b =
      (r.resp, r.acked s.par.ackPolicy (padDevice s.padKind) s.pad.stage, ⟨r.next, m⟩)) :
    (s.padTurn b).finish = s.padAnswered r.accepted r.resp r.next m := by
  rw [Turn.finish_eq]
  simp only [State.padTurn, hr, State.padAnswered, Row.acked]
  congr 1
  simp only [State.endTest, hs]
  split <;> rfl

/-- The card's next stage is its row's. -/
theorem CardTurn.after_stage (t : CardTurn) (n : Nat) : (t.after n).stage = t.row.next := by
  unfold CardTurn.after
  split
  · rename_i h; exact h.1.symm
  · rfl

/-- A byte on an open line to the addressed card: the state after, from the card's turn. -/
theorem State.transmit_card {s : State} {b : Byte} (ho : lineOpen s.ctrl = true) (hs : s.sel = .memoryCard)
    {t : CardTurn} (ht : Machine.cardTurn s.card s.store b = .ok t) :
    s.transmit b =
      .next (State.cardAnswered { s with store := t.store } t.row.accepted t.row.resp (t.after s.card.stage)) := by
  obtain ⟨h1, h2⟩ := lineOpen_eq ho
  simp only [State.transmit, h1, State.handleByte, State.exchange, h2, State.addressPhase_of_some s b (by simp [hs]),
    State.deviceTurn, hs, State.cardTurn, handleCard, ht, Turn.finish_eq, if_true, Bool.false_eq_true, if_false]
  have hst := t.after_stage s.card.stage
  congr 1
  simp only [State.cardAnswered, Row.acked, hst]
  congr 1
  simp only [State.endTest, hst]
  split <;> rfl

/-- From stage 6 on, the card's turn is its command's. -/
theorem cardTurn_data {c : Card} {m : Memory} {b : Byte} (h : 6 ≤ c.stage) (hc : c.cmd ≠ .noCmd) :
    Machine.cardTurn c m b =
      if c.cmd = .read then .ok { row := cardReadRow c, card := c, store := m } else cardWriteTurn c m b := by
  unfold Machine.cardTurn
  split
  · omega
  · omega
  · rw [if_neg hc]
    split <;> first | omega | rfl

/-! What each part of the card's tables can answer. -/

/-- Stage 1 (R172). -/
theorem cardCommand_cases (c : Card) (m : Memory) (b : Byte) :
    (b = cardReadByte ∧ cardCommand c m b = { row := .accept c.flag 2, card := { c with cmd := .read }, store := m }) ∨
    (b = cardWriteByte ∧ cardCommand c m b = { row := .accept c.flag 2, card := { c with cmd := .write }, store := m }) ∨
    (b ≠ cardReadByte ∧ b ≠ cardWriteByte ∧
      cardCommand c m b = { row := .reject (some .desync), card := c, store := m }) := by
  unfold cardCommand
  split
  · rename_i h; exact .inl ⟨h, rfl⟩
  · split
    · rename_i h; exact .inr (.inl ⟨h, rfl⟩)
    · rename_i h1 h2; exact .inr (.inr ⟨h1, h2, rfl⟩)

/-- Stage 5 always answers (R176). -/
theorem cardAddressLow_cases (c : Card) (m : Memory) (b : Byte) :
    (sectorIndex c.addrHi b < cardSectors ∧ c.cmd = .read ∧
      cardAddressLow c m b =
        .ok { row := .accept c.addrHi 6, card := { c with addrLo := b, buf := m.sector (sectorIndex c.addrHi b) }, store := m }) ∨
    (sectorIndex c.addrHi b < cardSectors ∧ c.cmd ≠ .read ∧
      cardAddressLow c m b = .ok { row := .accept c.addrHi 6, card := { c with addrLo := b }, store := m }) ∨
    (cardSectors ≤ sectorIndex c.addrHi b ∧
      cardAddressLow c m b = .ok { row := .reject (some .cardFault), card := { c with addrLo := b }, store := m }) := by
  unfold cardAddressLow
  by_cases h : sectorIndex c.addrHi b < cardSectors
  · by_cases hr : c.cmd = .read
    · exact .inl ⟨h, hr, by simp [Card.addr, h, hr, Memory.readSector]⟩
    · exact .inr (.inl ⟨h, hr, by simp [Card.addr, h, hr]⟩)
  · exact .inr (.inr ⟨by omega, by simp [Card.addr, h]⟩)

/-- A read accepts its stages 6 to 139 and no other (R177 to R183, R189). -/
theorem cardReadRow_cases (c : Card) :
    (6 ≤ c.stage ∧ c.stage ≤ 138 ∧ ∃ r, cardReadRow c = .accept r (c.stage + 1)) ∨
    (c.stage = 139 ∧ cardReadRow c = .accept cardGood 0) ∨
    ((c.stage < 6 ∨ 139 < c.stage) ∧ cardReadRow c = .reject none) := by
  unfold cardReadRow
  split
  · rename_i h; exact .inl ⟨by omega, by omega, _, by rw [h]⟩
  split
  · rename_i h; exact .inl ⟨by omega, by omega, _, by rw [h]⟩
  split
  · rename_i h; exact .inl ⟨by omega, by omega, _, by rw [h]⟩
  split
  · rename_i h; exact .inl ⟨by omega, by omega, _, by rw [h]⟩
  split
  · exact .inl ⟨by omega, by omega, _, rfl⟩
  split
  · rename_i h; exact .inl ⟨by omega, by omega, _, by rw [h]⟩
  split
  · rename_i h; exact .inr (.inl ⟨h, rfl⟩)
  · exact .inr (.inr ⟨by omega, rfl⟩)

/-- Stages 6 to 137 of a write and its invalid stages (R184 to R189). -/
theorem cardWriteTurn_cases {c : Card} {m : Memory} {b : Byte} {t : CardTurn} (h : cardWriteTurn c m b = .ok t) :
    (6 ≤ c.stage ∧ c.stage ≤ 133 ∧
      t = { row := .accept (c.echo (c.stage - 6)) (c.stage + 1), card := c.staged (c.stage - 6) b, store := m }) ∨
    (c.stage = 134 ∧ b = c.chk ∧ c.addr < cardSectors ∧ ∃ m', m.writeSector c.addr c.buf = some m' ∧
      t = { row := .accept (c.bufAt 127) 135, card := { c with fresh := false }, store := m' }) ∨
    (c.stage = 134 ∧ b ≠ c.chk ∧ t = { row := .reject (some .cardFault), card := c, store := m }) ∨
    (135 ≤ c.stage ∧ c.stage ≤ 136 ∧ ∃ r, t = { row := .accept r (c.stage + 1), card := c, store := m }) ∨
    (c.stage = 137 ∧ t = { row := .accept cardGood 0, card := c, store := m }) ∨
    ((c.stage < 6 ∨ 137 < c.stage) ∧ t = { row := .reject none, card := c, store := m }) := by
  unfold cardWriteTurn at h
  split at h
  · rename_i hs; injection h with e; exact .inl ⟨hs.1, hs.2, e.symm⟩
  split at h
  · rename_i hs
    unfold cardCommit at h
    split at h
    · rename_i hb
      split at h
      · rename_i m' hm
        injection h with e
        exact .inr (.inl ⟨hs, hb, (Memory.writeSector_eq_some.1 hm).1, m', hm, e.symm⟩)
      · cases h
    · rename_i hb; injection h with e; exact .inr (.inr (.inl ⟨hs, hb, e.symm⟩))
  split at h
  · rename_i hs; injection h with e; exact .inr (.inr (.inr (.inl ⟨by omega, by omega, _, by rw [hs]; exact e.symm⟩)))
  split at h
  · rename_i hs; injection h with e; exact .inr (.inr (.inr (.inl ⟨by omega, by omega, _, by rw [hs]; exact e.symm⟩)))
  split at h
  · rename_i hs; injection h with e; exact .inr (.inr (.inr (.inr (.inl ⟨hs, e.symm⟩))))
  · injection h with e; exact .inr (.inr (.inr (.inr (.inr ⟨by omega, e.symm⟩))))

/-- The card's turn, stage by stage (R170): which part of its tables answers. -/
theorem cardTurn_cases {c : Card} {m : Memory} {b : Byte} {t : CardTurn} (h : Machine.cardTurn c m b = .ok t) :
    (c.stage = 0 ∧ b = addrCardByte ∧ t = { row := .accept Config.idle 1, card := c, store := m }) ∨
    (c.stage = 0 ∧ b ≠ addrCardByte ∧ t = { row := .reject (some .desync), card := c, store := m }) ∨
    (c.stage = 1 ∧ t = cardCommand c m b) ∨
    (2 ≤ c.stage ∧ c.cmd = .noCmd ∧ t = { row := .reject none, card := c, store := m }) ∨
    (c.stage = 2 ∧ c.cmd ≠ .noCmd ∧ t = { row := .accept cardId1 3, card := c, store := m }) ∨
    (c.stage = 3 ∧ c.cmd ≠ .noCmd ∧ t = { row := .accept cardId2 4, card := c, store := m }) ∨
    (c.stage = 4 ∧ c.cmd ≠ .noCmd ∧ t = { row := .accept cardAddrAnswer 5, card := { c with addrHi := b }, store := m }) ∨
    (c.stage = 5 ∧ c.cmd ≠ .noCmd ∧ cardAddressLow c m b = .ok t) ∨
    (6 ≤ c.stage ∧ c.cmd = .read ∧ t = { row := cardReadRow c, card := c, store := m }) ∨
    (6 ≤ c.stage ∧ c.cmd = .write ∧ cardWriteTurn c m b = .ok t) := by
  unfold Machine.cardTurn at h
  split at h
  · rename_i hs
    injection h with e
    subst e
    by_cases hb : b = addrCardByte
    · exact .inl ⟨hs, hb, by simp [hb]⟩
    · exact .inr (.inl ⟨hs, hb, by simp [hb]⟩)
  · rename_i hs; injection h with e; exact .inr (.inr (.inl ⟨hs, e.symm⟩))
  · rename_i h0 h1
    have h0 : c.stage ≠ 0 := h0
    have h1 : c.stage ≠ 1 := h1
    have h2 : 2 ≤ c.stage := by omega
    iterate 3 right
    split at h
    · rename_i hc; injection h with e; exact .inl ⟨h2, hc, e.symm⟩
    · rename_i hc
      right
      split at h
      · rename_i hs; injection h with e; exact .inl ⟨hs, hc, e.symm⟩
      · rename_i hs; injection h with e; exact .inr (.inl ⟨hs, hc, e.symm⟩)
      · rename_i hs; injection h with e; exact .inr (.inr (.inl ⟨hs, hc, e.symm⟩))
      · rename_i hs; exact .inr (.inr (.inr (.inl ⟨hs, hc, h⟩)))
      · rename_i e2 e3 e4 e5
        have e2 : c.stage ≠ 2 := e2
        have e3 : c.stage ≠ 3 := e3
        have e4 : c.stage ≠ 4 := e4
        have e5 : c.stage ≠ 5 := e5
        have h6 : 6 ≤ c.stage := by omega
        iterate 4 right
        split at h
        · rename_i hr; injection h with e; exact .inl ⟨h6, hr, e.symm⟩
        · rename_i hr
          refine .inr ⟨h6, ?_, h⟩
          cases hk : c.cmd <;> simp_all

/-! What each pad's table can answer. -/

/-- The configured pad's handler is its row; the mode changes at stage 9 of an analog pad only (R113, R161). -/
theorem handlePad_eq (p : AckPolicy) (k : PadKind) (pad : Pad) (inp : Input) (b : Byte) :
    handlePad p k pad inp b =
      ((padRow k pad inp b).resp, (padRow k pad inp b).acked p (padDevice k) pad.stage,
        { stage := (padRow k pad inp b).next
          analogMode := if k = .analog ∧ pad.stage = 9 then !pad.analogMode else pad.analogMode }) := by
  cases k <;> simp [handlePad, handleMouse, handleDigital, handleAnalog, padRow, padDevice, analogModeAfter]

/-- The next stage of a pad is a stage of its table. -/
theorem padRow_next_le (k : PadKind) (pad : Pad) (inp : Input) (b : Byte) : (padRow k pad inp b).next ≤ padTopStage k := by
  cases k
  · simp only [padRow, digitalRow, padTopStage]; split <;> (try split) <;> simp
  · simp only [padRow, analogRow, padTopStage]; split <;> (try split) <;> (try split) <;> simp
  · simp only [padRow, mouseRow, padTopStage]; split <;> (try split) <;> simp

/-- The axis stages follow each other, or stage 4 in analog mode (R156 to R160). -/
theorem analogRow_axes (pad : Pad) (inp : Input) (b : Byte) (h5 : 5 ≤ (analogRow pad inp b).next)
    (h8 : (analogRow pad inp b).next ≤ 8) : (5 ≤ pad.stage ∧ pad.stage ≤ 8) ∨ (pad.stage = 4 ∧ pad.analogMode = true) := by
  revert h5 h8
  unfold analogRow
  split <;> (try split) <;> (try split) <;> simp_all

end Sys2Proof.Machine
end

