-- ==== Sys2Proof/Laws/PerInstr.lean ====
section
/-! SUPPORT. Facts about each instruction as syntax, one lemma per constructor. `TableRow`: what the encoder writes is an
instance of the row of spec/opcode_table.json that has the instruction's mnemonic. -/

namespace Sys2Proof.Laws

/-- The encoder's words lie in the row of the instruction's mnemonic (R83). -/
def TableRow.Statement (i : Instr) : Prop :=
  match encode i with
  | .word w => ∃ r ∈ stimulusRows, r.mnemonic = mnemonic i ∧ r.covers w = true
  | .serial b => (mnemonic i, b) ∈ serialRows
  | .access _ => False

/-- A word covered by the row at a place of the table. -/
theorem TableRow.of_row {i : Instr} {w : Word} (n : Nat) (hn : n < stimulusRows.length) (he : encode i = .word w)
    (hm : stimulusRows[n].mnemonic = mnemonic i) (hc : stimulusRows[n].covers w = true) : TableRow.Statement i := by
  unfold TableRow.Statement
  rw [he]
  exact ⟨stimulusRows[n], List.getElem_mem hn, hm, hc⟩

/-- A row with a 16-bit operand covers every operand. -/
theorem TableRow.covers_operand {r : OpcodeRow} {k o : BitVec 4} (hm : r.mask = 0xFFFF0000#32)
    (hb : r.bits = makeWord k o 0#16) (d : Half) : r.covers (makeWord k o d) = true := by
  simp [OpcodeRow.covers, hm, hb, makeWord_and_operandMask]

/-- A row with a byte operand covers every operand. -/
theorem TableRow.covers_byte {r : OpcodeRow} {k o : BitVec 4} (hm : r.mask = 0xFFFFFF00#32)
    (hb : r.bits = makeWord k o 0#16) (b : Byte) : r.covers (makeWord k o (0#8 ++ b)) = true := by
  simp [OpcodeRow.covers, hm, hb, makeWord_and_byteMask]

theorem TableRow.rdData : TableRow.Statement .rdData := TableRow.of_row 0 (by decide) rfl rfl (by decide)
theorem TableRow.wrData (b : Byte) : TableRow.Statement (.wrData b) := TableRow.of_row 1 (by decide) rfl rfl (TableRow.covers_byte rfl rfl _)
theorem TableRow.rdStat : TableRow.Statement .rdStat := TableRow.of_row 2 (by decide) rfl rfl (by decide)
theorem TableRow.wrStat (v : Half) : TableRow.Statement (.wrStat v) := TableRow.of_row 3 (by decide) rfl rfl (TableRow.covers_operand rfl rfl _)
theorem TableRow.rdMode : TableRow.Statement .rdMode := TableRow.of_row 4 (by decide) rfl rfl (by decide)
theorem TableRow.wrMode (v : Half) : TableRow.Statement (.wrMode v) := TableRow.of_row 5 (by decide) rfl rfl (TableRow.covers_operand rfl rfl _)
theorem TableRow.rdCtrl : TableRow.Statement .rdCtrl := TableRow.of_row 6 (by decide) rfl rfl (by decide)
theorem TableRow.wrCtrl (v : Half) : TableRow.Statement (.wrCtrl v) := TableRow.of_row 7 (by decide) rfl rfl (TableRow.covers_operand rfl rfl _)
theorem TableRow.rdBaud : TableRow.Statement .rdBaud := TableRow.of_row 8 (by decide) rfl rfl (by decide)
theorem TableRow.wrBaud (v : Half) : TableRow.Statement (.wrBaud v) := TableRow.of_row 9 (by decide) rfl rfl (TableRow.covers_operand rfl rfl _)
theorem TableRow.step (n : Half) : TableRow.Statement (.step n) := TableRow.of_row 10 (by decide) rfl rfl (TableRow.covers_operand rfl rfl _)
theorem TableRow.reset : TableRow.Statement .reset := TableRow.of_row 11 (by decide) rfl rfl (by decide)
theorem TableRow.setinBtn (b0 b1 : Byte) : TableRow.Statement (.setinBtn b0 b1) := TableRow.of_row 12 (by decide) rfl rfl (TableRow.covers_operand rfl rfl _)
theorem TableRow.setinRx (v : Byte) : TableRow.Statement (.setinRx v) := TableRow.of_row 13 (by decide) rfl rfl (TableRow.covers_byte rfl rfl _)
theorem TableRow.setinRy (v : Byte) : TableRow.Statement (.setinRy v) := TableRow.of_row 14 (by decide) rfl rfl (TableRow.covers_byte rfl rfl _)
theorem TableRow.setinLx (v : Byte) : TableRow.Statement (.setinLx v) := TableRow.of_row 15 (by decide) rfl rfl (TableRow.covers_byte rfl rfl _)
theorem TableRow.setinLy (v : Byte) : TableRow.Statement (.setinLy v) := TableRow.of_row 16 (by decide) rfl rfl (TableRow.covers_byte rfl rfl _)
theorem TableRow.setinDx (v : Byte) : TableRow.Statement (.setinDx v) := TableRow.of_row 17 (by decide) rfl rfl (TableRow.covers_byte rfl rfl _)
theorem TableRow.setinDy (v : Byte) : TableRow.Statement (.setinDy v) := TableRow.of_row 18 (by decide) rfl rfl (TableRow.covers_byte rfl rfl _)
theorem TableRow.configDigital : TableRow.Statement .configDigital := TableRow.of_row 19 (by decide) rfl rfl (by decide)
theorem TableRow.configAnalog : TableRow.Statement .configAnalog := TableRow.of_row 20 (by decide) rfl rfl (by decide)
theorem TableRow.configMouse : TableRow.Statement .configMouse := TableRow.of_row 21 (by decide) rfl rfl (by decide)
theorem TableRow.configCard : TableRow.Statement .configCard := TableRow.of_row 22 (by decide) rfl rfl (by decide)
theorem TableRow.addrPad : TableRow.Statement .addrPad := show _ ∈ serialRows by decide
theorem TableRow.addrCard : TableRow.Statement .addrCard := show _ ∈ serialRows by decide
theorem TableRow.padPoll : TableRow.Statement .padPoll := show _ ∈ serialRows by decide
theorem TableRow.padMode : TableRow.Statement .padMode := show _ ∈ serialRows by decide
theorem TableRow.cardRead : TableRow.Statement .cardRead := show _ ∈ serialRows by decide
theorem TableRow.cardWrite : TableRow.Statement .cardWrite := show _ ∈ serialRows by decide

end Sys2Proof.Laws
end

