-- ==== Sys2Proof/Machine/Text.lean ====
section
/-! DEFINITION. The spec's line form of an event (spec 30_encoding.md R81), values in hexadecimal with `0x`. -/

namespace Sys2Proof.Machine

/-- A hexadecimal digit, in capitals. -/
def hexDigit (n : Nat) : Char := if n < 10 then Char.ofNat (48 + n) else Char.ofNat (55 + n)

/-- A byte as `0xhh`. -/
def hexByte (b : Byte) : String := "0x" ++ String.ofList [hexDigit (b.toNat / 16), hexDigit (b.toNat % 16)]

/-- A 16-bit number as `0xhhhh`. -/
def hexHalf (v : Half) : String :=
  "0x" ++ String.ofList
    [hexDigit (v.toNat / 4096), hexDigit (v.toNat / 256 % 16), hexDigit (v.toNat / 16 % 16), hexDigit (v.toNat % 16)]

/-- The line of an event (R81); a serial byte is the DATA write that carries it. -/
def eventLine : Instr → String
  | .rdData => "RD DATA"
  | .wrData b => "WR DATA, " ++ hexByte b
  | .rdStat => "RD STAT"
  | .wrStat v => "WR STAT, " ++ hexHalf v
  | .rdMode => "RD MODE"
  | .wrMode v => "WR MODE, " ++ hexHalf v
  | .rdCtrl => "RD CTRL"
  | .wrCtrl v => "WR CTRL, " ++ hexHalf v
  | .rdBaud => "RD BAUD"
  | .wrBaud v => "WR BAUD, " ++ hexHalf v
  | .step n => "STEP " ++ toString n.toNat
  | .reset => "RESET"
  | .setinBtn btn0 btn1 => "SETIN BTN, " ++ hexHalf (btn1 ++ btn0)
  | .setinRx v => "SETIN RX, " ++ hexByte v
  | .setinRy v => "SETIN RY, " ++ hexByte v
  | .setinLx v => "SETIN LX, " ++ hexByte v
  | .setinLy v => "SETIN LY, " ++ hexByte v
  | .setinDx v => "SETIN DX, " ++ hexByte v
  | .setinDy v => "SETIN DY, " ++ hexByte v
  | .configDigital => "CONFIG DIGITAL"
  | .configAnalog => "CONFIG ANALOG"
  | .configMouse => "CONFIG MOUSE"
  | .configCard => "CONFIG CARD"
  | .addrPad => "WR DATA, " ++ hexByte addrPadByte
  | .addrCard => "WR DATA, " ++ hexByte addrCardByte
  | .padPoll => "WR DATA, " ++ hexByte padPollByte
  | .padMode => "WR DATA, " ++ hexByte padModeByte
  | .cardRead => "WR DATA, " ++ hexByte cardReadByte
  | .cardWrite => "WR DATA, " ++ hexByte cardWriteByte

/-- The line of a read with the value it returned (R81). -/
def readLine (i : Instr) : BusReply → String
  | .none => eventLine i
  | .byte b => eventLine i ++ " -> " ++ hexByte b
  | .half v => eventLine i ++ " -> " ++ hexHalf v

end Sys2Proof.Machine
end

