-- ==== Sys2Proof/Tests/Slice0.lean ====
section
/-! SUPPORT. The model's own tests: words written out from spec 30_encoding.md R71 and R72 with what they decode to, ill-formed
stimuli refused, vectors of spec 95_test_vectors.md (named in the docstrings), and for every statement with hypotheses a
witness that meets them. -/

namespace Sys2Proof.Tests

open Sys2Proof Sys2Proof.Machine

set_option Elab.async false

/-! ## Decoding: every row's word, written out (R71, R72, 95_test_vectors.md Part 3) -/

theorem test_decode_rdData : decodeTableWord 32 0x00000000 = some .rdData := by decide
theorem test_decode_wrData : decodeTableWord 32 0x100000EE = some (.wrData 0xEE#8) := by decide
theorem test_decode_rdStat : decodeTableWord 32 0x04000000 = some .rdStat := by decide
theorem test_decode_wrStat : decodeTableWord 32 0x14000000 = some (.wrStat 0x0000#16) := by decide
theorem test_decode_rdMode : decodeTableWord 32 0x08000000 = some .rdMode := by decide
theorem test_decode_wrMode : decodeTableWord 32 0x1800000D = some (.wrMode 0x000D#16) := by decide
theorem test_decode_rdCtrl : decodeTableWord 32 0x0A000000 = some .rdCtrl := by decide
theorem test_decode_wrCtrl : decodeTableWord 32 0x1A001013 = some (.wrCtrl 0x1013#16) := by decide
theorem test_decode_rdBaud : decodeTableWord 32 0x0E000000 = some .rdBaud := by decide
theorem test_decode_wrBaud : decodeTableWord 32 0x1E000088 = some (.wrBaud 0x0088#16) := by decide
theorem test_decode_step : decodeTableWord 32 0x20000004 = some (.step 4#16) := by decide
theorem test_decode_reset : decodeTableWord 32 0x30000000 = some .reset := by decide
theorem test_decode_setinBtn : decodeTableWord 32 0x40004009 = some (.setinBtn 0x09#8 0x40#8) := by decide
theorem test_decode_setinRx : decodeTableWord 32 0x41000080 = some (.setinRx 0x80#8) := by decide
theorem test_decode_setinRy : decodeTableWord 32 0x4200007F = some (.setinRy 0x7F#8) := by decide
theorem test_decode_setinLx : decodeTableWord 32 0x43000000 = some (.setinLx 0x00#8) := by decide
theorem test_decode_setinLy : decodeTableWord 32 0x440000FF = some (.setinLy 0xFF#8) := by decide
theorem test_decode_setinDx : decodeTableWord 32 0x45000005 = some (.setinDx 0x05#8) := by decide
theorem test_decode_setinDy : decodeTableWord 32 0x460000FE = some (.setinDy 0xFE#8) := by decide
theorem test_decode_configDigital : decodeTableWord 32 0x50000000 = some .configDigital := by decide
theorem test_decode_configAnalog : decodeTableWord 32 0x50000001 = some .configAnalog := by decide
theorem test_decode_configMouse : decodeTableWord 32 0x50000002 = some .configMouse := by decide
theorem test_decode_configCard : decodeTableWord 32 0x51000000 = some .configCard := by decide
theorem test_decode_addrPad : decodeTableWord 8 0x01 = some .addrPad := by decide
theorem test_decode_addrCard : decodeTableWord 8 0x81 = some .addrCard := by decide
theorem test_decode_padPoll : decodeTableWord 8 0x42 = some .padPoll := by decide
theorem test_decode_padMode : decodeTableWord 8 0x44 = some .padMode := by decide
theorem test_decode_cardRead : decodeTableWord 8 0x52 = some .cardRead := by decide
theorem test_decode_cardWrite : decodeTableWord 8 0x57 = some .cardWrite := by decide

/-- A serial byte that is no row is the DATA write that carries it (log entry 11). -/
theorem test_decode_other_serial_byte : decodeTableWord 8 0x43 = some (.wrData 0x43#8) := by decide

/-- The bus accesses, low byte first (R53, R70). -/
theorem test_decode_accesses :
    decodeAccess (.read 0x0#4 1) = some .rdData ∧ decodeAccess (.write 0x0#4 [0x42#8]) = some (.wrData 0x42#8) ∧
    decodeAccess (.read 0x4#4 2) = some .rdStat ∧ decodeAccess (.write 0x4#4 [0x34#8, 0x12#8]) = some (.wrStat 0x1234#16) ∧
    decodeAccess (.read 0x8#4 2) = some .rdMode ∧ decodeAccess (.write 0x8#4 [0x0D#8, 0x00#8]) = some (.wrMode 0x000D#16) ∧
    decodeAccess (.read 0xA#4 2) = some .rdCtrl ∧ decodeAccess (.write 0xA#4 [0x13#8, 0x10#8]) = some (.wrCtrl 0x1013#16) ∧
    decodeAccess (.read 0xE#4 2) = some .rdBaud ∧ decodeAccess (.write 0xE#4 [0x88#8, 0x00#8]) = some (.wrBaud 0x0088#16) := by
  decide

/-- The encoder writes the words of 95_test_vectors.md P2. -/
theorem test_encode :
    encode (.setinBtn 0x09#8 0x40#8) = .word 0x40004009#32 ∧ encode (.wrCtrl 0x1003#16) = .word 0x1A001003#32 ∧
    encode .configDigital = .word 0x50000000#32 ∧ encode (.wrData 0x42#8) = .word 0x10000042#32 ∧
    encode (.step 3#16) = .word 0x20000003#32 := by decide

/-! ## WellFormed: an ill-formed stimulus for each check, refused (R52, R71, A14) -/

/-- A kind above 5. -/
theorem test_illformed_kind :
    wordWellFormed 0x60000000#32 = false ∧ decode (.word 0x60000000#32) = .error (.undefinedWord 0x60000000#32) := by decide
/-- Bits 23:16 not 0. -/
theorem test_illformed_reserved :
    wordWellFormed 0x00010000#32 = false ∧ decode (.word 0x00010000#32) = .error (.undefinedWord 0x00010000#32) := by decide
/-- An offset that holds no register. -/
theorem test_illformed_offset :
    wordWellFormed 0x02000000#32 = false ∧ decode (.word 0x02000000#32) = .error (.undefinedWord 0x02000000#32) := by decide
/-- Data in a read. -/
theorem test_illformed_read_data :
    wordWellFormed 0x00000001#32 = false ∧ decode (.word 0x00000001#32) = .error (.undefinedWord 0x00000001#32) := by decide
/-- Bits 15:8 of a DATA write. -/
theorem test_illformed_data_high :
    wordWellFormed 0x10000100#32 = false ∧ decode (.word 0x10000100#32) = .error (.undefinedWord 0x10000100#32) := by decide
/-- An offset in STEP. -/
theorem test_illformed_step_offset :
    wordWellFormed 0x21000001#32 = false ∧ decode (.word 0x21000001#32) = .error (.undefinedWord 0x21000001#32) := by decide
/-- Data in RESET. -/
theorem test_illformed_reset_data :
    wordWellFormed 0x30000001#32 = false ∧ decode (.word 0x30000001#32) = .error (.undefinedWord 0x30000001#32) := by decide
/-- A field above 6. -/
theorem test_illformed_setin_field :
    wordWellFormed 0x47000000#32 = false ∧ decode (.word 0x47000000#32) = .error (.undefinedWord 0x47000000#32) := by decide
/-- Bits 15:8 of a byte field. -/
theorem test_illformed_setin_high :
    wordWellFormed 0x41000100#32 = false ∧ decode (.word 0x41000100#32) = .error (.undefinedWord 0x41000100#32) := by decide
/-- A CONFIG kind above 2. -/
theorem test_illformed_config_kind :
    wordWellFormed 0x50000003#32 = false ∧ decode (.word 0x50000003#32) = .error (.undefinedWord 0x50000003#32) := by decide
/-- A CONFIG offset above 1. -/
theorem test_illformed_config_offset :
    wordWellFormed 0x52000000#32 = false ∧ decode (.word 0x52000000#32) = .error (.undefinedWord 0x52000000#32) := by decide
/-- Data in CONFIG CARD. -/
theorem test_illformed_config_card_data :
    wordWellFormed 0x51000001#32 = false ∧ decode (.word 0x51000001#32) = .error (.undefinedWord 0x51000001#32) := by decide
/-- A width that is not the register's, an offset that holds no register, a misaligned access, an access over two
registers (A14, R54). -/
theorem test_illformed_accesses :
    (BusAccess.write 0x0#4 [1#8, 2#8]).wellFormed = false ∧ decodeAccess (.write 0x0#4 [1#8, 2#8]) = none ∧
    (BusAccess.read 0x4#4 1).wellFormed = false ∧ decodeAccess (.read 0x4#4 1) = none ∧
    (BusAccess.read 0x2#4 1).wellFormed = false ∧ decodeAccess (.read 0x2#4 1) = none ∧
    (BusAccess.read 0xC#4 2).wellFormed = false ∧ decodeAccess (.read 0xC#4 2) = none ∧
    (BusAccess.read 0x9#4 2).wellFormed = false ∧ decodeAccess (.read 0x9#4 2) = none ∧
    (BusAccess.read 0x8#4 4).wellFormed = false ∧ decodeAccess (.read 0x8#4 4) = none ∧
    (BusAccess.write 0xE#4 []).wellFormed = false ∧ decodeAccess (.write 0xE#4 []) = none := by decide

/-! ## The states the tests use -/

/-- Input `SETIN BTN, 0x4009` with axes and deltas of the spec's examples. -/
def input0 : Input :=
  { btn0 := 0x09#8, btn1 := 0x40#8, rx := 0x80#8, ry := 0x7F#8, lx := 0x00#8, ly := 0xFF#8, dx := 0x05#8, dy := 0xFE#8 }

/-- After `RESET` and a CTRL write, with a pad of a kind, `ACK_IRQ_DELAY` 4, an empty store. -/
def idleState (c : Half) (k : PadKind) : State :=
  { mode := 0#16, ctrl := c, baud := 0#16, rxData := 0xFF#8, rxPending := false, ack := false, irqTimer := 0
    irq := false, sel := .none, padKind := k, pad := Pad.initial, card := Card.initial, store := [], input := input0
    par := { ackDelay := ⟨3⟩, ackPolicy := .default }, reply := .none, pending := [] }

/-- A pad addressed at a stage. -/
def padAt (k : PadKind) (stage : Nat) (mode : Bool) : State :=
  { idleState 0x0003#16 k with sel := .controller, pad := { stage := stage, analogMode := mode } }

/-- The card addressed at a stage, sector address `0x03FF`, buffer all `0x11`, and so checksum `0xFC` (R75). -/
def cardAt (cmd : CardCommand) (stage : Nat) : State :=
  { idleState 0x0003#16 .mouse with
    sel := .memoryCard
    card :=
      { stage := stage, cmd := cmd, addrHi := 0x03#8, addrLo := 0xFF#8, buf := Vector.replicate 128 0x11#8
        fresh := true } }

/-- The state after an instruction that answers. -/
def after (i : Instr) (s : State) : State :=
  match exec i s with
  | .next t => t
  | _ => s

/-- Whether an instruction answers. -/
def answers (i : Instr) (s : State) : Bool :=
  match exec i s with
  | .next _ => true
  | _ => false

theorem exec_after {i : Instr} {s : State} (h : answers i s = true) : exec i s = .next (after i s) := by
  unfold answers at h
  unfold after
  split at h <;> simp_all

/-- What an exchange leaves: the latch, the acknowledge, the selection, both stages. -/
structure Seen where
  rxData : Byte
  ack : Bool
  sel : Selection
  padStage : Nat
  cardStage : Nat
  deriving DecidableEq, Repr

/-- What the exchange of a byte leaves. -/
def exchanged (b : Byte) (s : State) : Seen :=
  let t := after (.wrData b) s
  ⟨t.rxData, t.ack, t.sel, t.pad.stage, t.card.stage⟩

/-! ## Register accesses (95_test_vectors.md A) -/

/-- A1. -/
theorem test_rdStat : (after .rdStat (after .reset (padAt .mouse 3 false))).reply = .half 0x0005#16 := by decide +kernel

/-- A2: destructive, and `ack` stays. -/
theorem test_rdData :
    after .rdData { idleState 3#16 .mouse with rxData := 0x5A#8, rxPending := true, ack := true } =
      { idleState 3#16 .mouse with reply := .byte 0x5A#8, ack := true } := by decide +kernel

/-- A4. -/
theorem test_mode : (after .rdMode (after (.wrMode 0x000D#16) (padAt .mouse 3 false))).reply = .half 0x000D#16 := by decide +kernel

/-- A5. -/
theorem test_baud : (after .rdBaud (after (.wrBaud 0x0088#16) (padAt .mouse 3 false))).reply = .half 0x0088#16 := by decide +kernel

/-- A6. -/
theorem test_rdCtrl :
    (after .rdCtrl (after (.wrCtrl 0xFFFF#16) { padAt .mouse 3 false with irq := true })).reply = .half 0xFFEF#16 := by
  decide +kernel

/-- A7: the selection and the countdown stay. -/
theorem test_wrCtrl_irqAck :
    after (.wrCtrl 0x1013#16) { padAt .mouse 3 false with ctrl := 0x1003#16, irq := true, irqTimer := 2 } =
      { padAt .mouse 3 false with ctrl := 0x1003#16, irq := false, irqTimer := 2 } := by decide +kernel

/-- A10: SELECT off keeps the stage. -/
theorem test_wrCtrl_deselect :
    after (.wrCtrl 0x0001#16) (padAt .mouse 3 false) =
      { padAt .mouse 3 false with ctrl := 0x0001#16, sel := .none } := by decide +kernel

/-- A8. -/
theorem test_wrStat :
    after (.wrStat 0x0000#16) { padAt .mouse 3 false with irq := true } = { padAt .mouse 3 false with irq := true } := by
  decide +kernel

/-- A12: with TXEN 0 nothing happens. -/
theorem test_wrData_disabled : after (.wrData 0x01#8) (idleState 0x0002#16 .mouse) = idleState 0x0002#16 .mouse := by decide +kernel

/-! ## The exchange (X) and the serial rows -/

/-- X1, X2, X3: no device. -/
theorem test_no_device :
    exchanged 0x01#8 (idleState 0x0001#16 .mouse) = ⟨0xFF#8, false, .none, 0, 0⟩ ∧
    exchanged 0x01#8 (idleState 0x2003#16 .mouse) = ⟨0xFF#8, false, .none, 0, 0⟩ ∧
    exchanged 0x55#8 (idleState 0x0003#16 .mouse) = ⟨0xFF#8, false, .none, 0, 0⟩ := by decide +kernel

/-- X4, and its variant under `AckPolicy_mouseSilent`. -/
theorem test_addrPad :
    (after .addrPad (idleState 0x0003#16 .mouse)).stat = 0x0087#16 ∧
    (after .addrPad { idleState 0x0003#16 .mouse with par := { ackDelay := ⟨3⟩, ackPolicy := .mouseSilent } }).stat =
      0x0007#16 := by decide +kernel

/-- X5, from leftover stages. -/
theorem test_addrCard :
    exchanged 0x81#8 { cardAt .write 135 with sel := .none, pad := { stage := 2, analogMode := false } } =
      ⟨0xFF#8, true, .memoryCard, 0, 1⟩ ∧
    after .addrCard (idleState 0x0003#16 .mouse) = after (.wrData 0x81#8) (idleState 0x0003#16 .mouse) := by decide +kernel

/-- M1: the command byte of the mouse. -/
theorem test_padPoll_mouse :
    exchanged 0x42#8 (padAt .mouse 1 false) = ⟨0x12#8, true, .controller, 2, 0⟩ ∧
    after .padPoll (padAt .mouse 1 false) = after (.wrData 0x42#8) (padAt .mouse 1 false) := by decide +kernel

/-- G1, G3: the identifier follows the mode. -/
theorem test_padPoll_analog :
    exchanged 0x42#8 (padAt .analog 1 false) = ⟨0x41#8, true, .controller, 2, 0⟩ ∧
    exchanged 0x42#8 (padAt .analog 1 true) = ⟨0x73#8, true, .controller, 2, 0⟩ := by decide +kernel

/-- G2, M4: the mode switch is the analog pad's alone. -/
theorem test_padMode :
    (after .padMode (padAt .analog 1 false)).pad = { stage := 9, analogMode := false } ∧
    exchanged 0x44#8 (padAt .mouse 1 false) = ⟨0xFF#8, false, .none, 0, 0⟩ ∧
    exchanged 0x44#8 (padAt .digital 1 false) = ⟨0xFF#8, false, .none, 0, 0⟩ := by decide +kernel

/-- K4 to K6, K10: FLAG, and the command kept. -/
theorem test_card_commands :
    (after .cardRead { cardAt .noCmd 1 with card := { (cardAt .noCmd 1).card with fresh := false } }).rxData = 0x00#8 ∧
    (after .cardWrite (cardAt .noCmd 1)).rxData = 0x08#8 ∧
    (after .cardRead (cardAt .noCmd 1)).card.cmd = .read ∧ (after .cardWrite (cardAt .noCmd 1)).card.cmd = .write ∧
    exchanged 0x53#8 (cardAt .noCmd 1) = ⟨0xFF#8, false, .none, 0, 0⟩ := by decide +kernel

/-! ## The devices (M, D, G, K) -/

/-- M1, M7. -/
theorem test_mouse :
    exchanged 0xA5#8 (padAt .mouse 5 false) = ⟨0x05#8, true, .controller, 6, 0⟩ ∧
    exchanged 0x81#8 (padAt .mouse 6 false) = ⟨0xFE#8, false, .none, 0, 0⟩ ∧
    exchanged 0x00#8 (padAt .mouse 7 false) = ⟨0xFF#8, false, .none, 0, 0⟩ := by decide +kernel

/-- D1: `~0x09`, `~0x40`. -/
theorem test_digital :
    exchanged 0x00#8 (padAt .digital 3 false) = ⟨0xF6#8, true, .controller, 4, 0⟩ ∧
    exchanged 0x00#8 (padAt .digital 4 false) = ⟨0xBF#8, false, .none, 0, 0⟩ := by decide +kernel

/-- G3, R156 to R160. -/
theorem test_analog_axes :
    exchanged 0x00#8 (padAt .analog 4 true) = ⟨0xBF#8, true, .controller, 5, 0⟩ ∧
    exchanged 0x00#8 (padAt .analog 5 true) = ⟨0x80#8, true, .controller, 6, 0⟩ ∧
    exchanged 0x00#8 (padAt .analog 6 true) = ⟨0x7F#8, true, .controller, 7, 0⟩ ∧
    exchanged 0x00#8 (padAt .analog 7 true) = ⟨0x00#8, true, .controller, 8, 0⟩ ∧
    exchanged 0x00#8 (padAt .analog 8 true) = ⟨0xFF#8, false, .none, 0, 0⟩ := by decide +kernel

/-- G2, G6: the toggle. -/
theorem test_analog_toggle :
    (after (.wrData 0x00#8) (padAt .analog 9 false)).pad = { stage := 0, analogMode := true } ∧
    (after (.wrData 0x00#8) (padAt .analog 9 true)).pad = { stage := 0, analogMode := false } := by decide +kernel

/-- K6, K7: the range check, with `addrHi` 3 and 4. -/
theorem test_card_range :
    exchanged 0xFF#8 (cardAt .read 5) = ⟨0x03#8, true, .memoryCard, 0, 6⟩ ∧
    exchanged 0x00#8 { cardAt .read 5 with card := { (cardAt .read 5).card with addrHi := 0x04#8 } } =
      ⟨0xFF#8, false, .none, 0, 0⟩ := by decide +kernel

/-- R177 to R183 at their boundaries: 128 equal data bytes cancel in the checksum, which is `0x03 xor 0xFF`. -/
theorem test_card_read :
    exchanged 0x00#8 (cardAt .read 9) = ⟨0xFF#8, true, .memoryCard, 0, 10⟩ ∧
    exchanged 0x00#8 (cardAt .read 10) = ⟨0x11#8, true, .memoryCard, 0, 11⟩ ∧
    exchanged 0x00#8 (cardAt .read 137) = ⟨0x11#8, true, .memoryCard, 0, 138⟩ ∧
    exchanged 0x00#8 (cardAt .read 138) = ⟨0xFC#8, true, .memoryCard, 0, 139⟩ ∧
    exchanged 0x00#8 (cardAt .read 139) = ⟨0x47#8, false, .none, 0, 0⟩ := by decide +kernel

/-- R184: the echo of the byte before, and the staged byte. -/
theorem test_card_write_data :
    exchanged 0xAA#8 (cardAt .write 6) = ⟨0xFF#8, true, .memoryCard, 0, 7⟩ ∧
    (after (.wrData 0xAA#8) (cardAt .write 6)).card.buf[0] = 0xAA#8 ∧
    exchanged 0xBB#8 (cardAt .write 133) = ⟨0x11#8, true, .memoryCard, 0, 134⟩ ∧
    (after (.wrData 0xBB#8) (cardAt .write 133)).card.buf[127] = 0xBB#8 := by decide +kernel

/-- R185, K5: the commit at the last sector of the store, and the abort. -/
theorem test_card_checksum :
    exchanged 0xFC#8 (cardAt .write 134) = ⟨0x11#8, true, .memoryCard, 0, 135⟩ ∧
    (after (.wrData 0xFC#8) (cardAt .write 134)).store.read 131071 = 0x11#8 ∧
    (after (.wrData 0xFC#8) (cardAt .write 134)).store.read 130943 = 0x00#8 ∧
    (after (.wrData 0xFC#8) (cardAt .write 134)).card.fresh = false ∧
    exchanged 0xFD#8 (cardAt .write 134) = ⟨0xFF#8, false, .none, 0, 0⟩ ∧
    (after (.wrData 0xFD#8) (cardAt .write 134)).store = [] := by decide +kernel

/-- K1, K2, K3. -/
theorem test_checksum :
    checksum 0x00#8 0x01#8 (Vector.ofFn fun i => BitVec.ofNat 8 i.val) = 0x01#8 ∧
    checksum 0x01#8 0x23#8 (Vector.replicate 128 0xAA#8) = 0x22#8 ∧
    checksum 0x03#8 0xFF#8 ((Vector.replicate 128 0x00#8).set 127 0x5A#8) = 0xA6#8 := by decide +kernel

/-! ## The clock (T), reset (C1), the front-end -/

/-- T2: the fourth step asserts. -/
theorem test_step :
    after (.step 3#16) { idleState 0x1003#16 .digital with irqTimer := 4 } =
      { idleState 0x1003#16 .digital with irqTimer := 1 } ∧
    after (.step 4#16) { idleState 0x1003#16 .digital with irqTimer := 4 } =
      { idleState 0x1003#16 .digital with irqTimer := 0, irq := true } := by decide +kernel

/-- T1, T3: ACKIE decides the arm. -/
theorem test_arm :
    (after (.wrData 0x01#8) (idleState 0x1003#16 .digital)).irqTimer = 4 ∧
    (after (.wrData 0x01#8) (idleState 0x0003#16 .digital)).irqTimer = 0 := by decide +kernel

/-- C1. -/
theorem test_reset :
    after .reset { cardAt .read 50 with ctrl := 0x1003#16, mode := 0xD#16, baud := 0x88#16, rxPending := true, ack := true
                                        irq := true, irqTimer := 2, pad := { stage := 0, analogMode := true } } =
      { cardAt .read 50 with ctrl := 0#16, sel := .none, pad := { stage := 0, analogMode := true } } := by decide +kernel

/-- R123: the BTN field is both bytes, the low one first. -/
theorem test_setin :
    (after (.setinBtn 0x09#8 0x40#8) (idleState 3#16 .mouse)).input.btn0 = 0x09#8 ∧
    (after (.setinBtn 0x09#8 0x40#8) (idleState 3#16 .mouse)).input.btn1 = 0x40#8 ∧
    (after (.setinRx 1#8) (idleState 3#16 .mouse)).input = { input0 with rx := 1#8 } ∧
    (after (.setinRy 2#8) (idleState 3#16 .mouse)).input = { input0 with ry := 2#8 } ∧
    (after (.setinLx 3#8) (idleState 3#16 .mouse)).input = { input0 with lx := 3#8 } ∧
    (after (.setinLy 4#8) (idleState 3#16 .mouse)).input = { input0 with ly := 4#8 } ∧
    (after (.setinDx 5#8) (idleState 3#16 .mouse)).input = { input0 with dx := 5#8 } ∧
    (after (.setinDy 6#8) (idleState 3#16 .mouse)).input = { input0 with dy := 6#8 } := by decide +kernel

/-- X11, X12, G8. -/
theorem test_config :
    after .configDigital (padAt .analog 2 true) = idleState 0x0003#16 .digital ∧
    (after .configAnalog (padAt .analog 2 true)).pad = Pad.initial ∧
    (after .configMouse (cardAt .read 7)).sel = .memoryCard ∧
    (after .configCard (padAt .analog 2 true)).sel = .controller ∧
    after .configCard (cardAt .write 7) = idleState 0x0003#16 .mouse := by decide +kernel

/-- A step fetches the first waiting event: the form of the host's own question. -/
theorem test_step_runs_the_fetched_word :
    step ((idleState 0x0003#16 .mouse).withFetchWord 8 0x01) = .next (after .addrPad (idleState 0x0003#16 .mouse)) ∧
    step ((idleState 0x0003#16 .mouse).withFetchWord 32 0x60000000) =
      .refused (.undefinedStimulus (.undefinedWord 0x60000000#32)) := ⟨rfl, rfl⟩

/-- The text of two events (R81), the bytes of a 16-bit read (R53), `XCHG` (R82). -/
theorem test_notation :
    eventLine (.wrCtrl 0x1013#16) = "WR CTRL, 0x1013" ∧ readLine .rdStat (.half 0x0087#16) = "RD STAT -> 0x0087" ∧
    (BusReply.half 0x0287#16).bytes = [0x87#8, 0x02#8] ∧
    program (xchg 0x81#8) = [.word 0x10000081#32, .word 0x00000000#32] := by decide +kernel

/-! ## Witnesses: states and operands that meet each statement's hypotheses, at the boundaries of each clause -/

/-- The invariant holds in a state with a write of the last sector about to commit. -/
theorem inv_cardAt_134 : (cardAt .write 134).Inv := by constructor <;> decide +kernel

/-- The invariant holds in a state with an analog pad at its last stage. -/
theorem inv_padAt_9 : (padAt .analog 9 true).Inv := by constructor <;> decide +kernel

/-- The invariant does not depend on the waiting events. -/
theorem inv_with_events {s : State} (h : s.Inv) (es : List Stimulus) : ({ s with pending := es } : State).Inv :=
  ⟨h.1, h.2, h.3, h.4, h.5, h.6, h.7, h.8, h.9, h.10, h.11, h.12, h.13⟩

theorem witness_DecodedWordIsItsEncoding :
    decodeWord 0x1A001013#32 = some (.wrCtrl 0x1013#16) ∧ decodeWord 0x1000FF00#32 = none := by decide

theorem witness_DecoderAcceptsExactlyTheTable :
    wordWellFormed 0x00010000#32 = false ∧ (BusAccess.read 0x9#4 2).wellFormed = false ∧
    decodeWord 0x51000000#32 = some .configCard ∧ (Stimulus.serial 0x43#8).wellFormed = true := by decide

theorem witness_BusAccessIsOneOfTen :
    ({ idleState 3#16 .mouse with pending := [.access (.read 0x9#4 2)] } : State).pending = .access (.read 0x9#4 2) :: [] ∧
    ∀ i, decode (.access (.read 0x9#4 2)) ≠ .ok i := ⟨rfl, fun _ h => by cases h⟩

theorem step_serial_after {s : State} {b : Byte} {i : Instr} (hi : decodeSerial b = i)
    (h : answers i { s with pending := [] } = true) :
    step { s with pending := [.serial b] } = .next (after i { s with pending := [] }) := by
  subst hi
  exact exec_after h

theorem witness_StepKeepsInvariant :
    ({ cardAt .write 134 with pending := [.serial 0xFC#8] } : State).Inv ∧
    step { cardAt .write 134 with pending := [.serial 0xFC#8] } = .next (after (.wrData 0xFC#8) (cardAt .write 134)) ∧
    ({ padAt .analog 9 true with pending := [.word 0x10000000#32] } : State).Inv ∧
    step { padAt .analog 9 true with pending := [.word 0x10000000#32] } =
      .next (after (.wrData 0x00#8) (padAt .analog 9 true)) :=
  ⟨inv_with_events inv_cardAt_134 _,
    step_serial_after rfl (by decide +kernel),
    inv_with_events inv_padAt_9 _, rfl⟩

theorem witness_StepAnswersDefinedEvents :
    ({ cardAt .write 134 with pending := [.serial 0xFC#8] } : State).Inv ∧
    ({ cardAt .write 134 with pending := [.serial 0xFC#8] } : State).nextDefined = true ∧
    ({ cardAt .write 134 with pending := [.word 0x50000003#32] } : State).Inv ∧
    ({ cardAt .write 134 with pending := [.word 0x50000003#32] } : State).nextDefined = false :=
  ⟨inv_with_events inv_cardAt_134 _, by decide +kernel, inv_with_events inv_cardAt_134 _, by decide +kernel⟩

theorem witness_StepRunsDecodedInstruction :
    ({ padAt .mouse 3 false with pending := [.word 0x20000004#32, .serial 0x01#8] } : State).pending =
      .word 0x20000004#32 :: [.serial 0x01#8] ∧
    decode (.word 0x20000004#32) = .ok (.step 4#16) := ⟨rfl, rfl⟩

theorem witness_NoEventNoChange : (padAt .mouse 3 false).pending = [] := rfl

theorem witness_EveryInstructionCompletes :
    (cardAt .write 134).card.stage = 134 ∧ (cardAt .write 134).card.addr = 1023 := by decide +kernel

theorem witness_ExecKeepsParametersAndEvents :
    exec .addrPad (idleState 0x1003#16 .mouse) = .next (after .addrPad (idleState 0x1003#16 .mouse)) := rfl

/-- The countdown ends on the last of the counted steps. -/
theorem witness_IrqRaisedOnlyByClock :
    exec (.step 4#16) { idleState 3#16 .mouse with irqTimer := 4 } =
      .next (after (.step 4#16) { idleState 3#16 .mouse with irqTimer := 4 }) ∧
    (idleState 3#16 .mouse).irq = false ∧ (after (.step 4#16) { idleState 3#16 .mouse with irqTimer := 4 }).irq = true :=
  ⟨rfl, rfl, rfl⟩

theorem witness_IrqClearedOnlyByCtrlOrReset :
    exec (.wrCtrl 0x0010#16) { padAt .mouse 3 false with irq := true } =
      .next (after (.wrCtrl 0x0010#16) { padAt .mouse 3 false with irq := true }) ∧
    (after (.wrCtrl 0x0010#16) { padAt .mouse 3 false with irq := true }).irq = false ∧
    (after .reset { padAt .mouse 3 false with irq := true }).irq = false := ⟨rfl, rfl, rfl⟩

theorem witness_FlagsSetOnlyByDataWrite :
    exec .addrPad (idleState 3#16 .mouse) = .next (after .addrPad (idleState 3#16 .mouse)) ∧
    (idleState 3#16 .mouse).ack = false ∧ (after .addrPad (idleState 3#16 .mouse)).ack = true ∧
    (idleState 3#16 .mouse).rxPending = false ∧ (after .addrPad (idleState 3#16 .mouse)).rxPending = true :=
  ⟨rfl, rfl, rfl, rfl, rfl⟩

theorem witness_RegistersWrittenOnlyByTheirWrites :
    exec (.wrMode 0xD#16) (padAt .mouse 3 false) = .next (after (.wrMode 0xD#16) (padAt .mouse 3 false)) ∧
    (after (.wrMode 0xD#16) (padAt .mouse 3 false)).mode ≠ (padAt .mouse 3 false).mode ∧
    (after (.wrCtrl 0x1003#16) (padAt .mouse 3 false)).ctrl ≠ (padAt .mouse 3 false).ctrl ∧
    (after .reset (padAt .mouse 3 false)).ctrl ≠ (padAt .mouse 3 false).ctrl ∧
    (after (.wrBaud 0x88#16) (padAt .mouse 3 false)).baud ≠ (padAt .mouse 3 false).baud := ⟨rfl, by decide +kernel⟩

theorem witness_PadKindAndInputOnlyByFrontEnd :
    exec .configAnalog (padAt .mouse 3 false) = .next (after .configAnalog (padAt .mouse 3 false)) ∧
    (after .configAnalog (padAt .mouse 3 false)).padKind ≠ (padAt .mouse 3 false).padKind ∧
    (after (.setinDy 0#8) (padAt .mouse 3 false)).input ≠ (padAt .mouse 3 false).input := ⟨rfl, by decide +kernel⟩

theorem witness_StoreWrittenOnlyByCommit :
    exec (.wrData 0xFC#8) (cardAt .write 134) = .next (after (.wrData 0xFC#8) (cardAt .write 134)) ∧
    (after (.wrData 0xFC#8) (cardAt .write 134)).store ≠ (cardAt .write 134).store :=
  ⟨exec_after (by decide +kernel), by decide +kernel⟩

theorem witness_AnalogModeWrittenOnlyByToggleOrConfig :
    exec (.wrData 0#8) (padAt .analog 9 true) = .next (after (.wrData 0#8) (padAt .analog 9 true)) ∧
    (after (.wrData 0#8) (padAt .analog 9 true)).pad.analogMode ≠ (padAt .analog 9 true).pad.analogMode ∧
    (after .configAnalog (padAt .analog 9 true)).pad.analogMode ≠ (padAt .analog 9 true).pad.analogMode :=
  ⟨rfl, by decide +kernel⟩

/-- One state for each clause: the card, the pad, no device addressed. -/
theorem witness_DevicesAreIsolated :
    serialByteOf .padPoll = some 0x42#8 ∧
    exec .padPoll (cardAt .write 6) = .next (after .padPoll (cardAt .write 6)) ∧ (cardAt .write 6).sel = .memoryCard ∧
    exec .padPoll (padAt .analog 1 true) = .next (after .padPoll (padAt .analog 1 true)) ∧
    (padAt .analog 1 true).sel = .controller ∧
    exec .padPoll (idleState 3#16 .mouse) = .next (after .padPoll (idleState 3#16 .mouse)) ∧
    (idleState 3#16 .mouse).sel = .none := ⟨rfl, rfl, rfl, rfl, rfl, rfl, rfl⟩

theorem witness_AckMeansSequenceGoesOn :
    serialByteOf .addrPad = some 0x01#8 ∧ (idleState 3#16 .mouse).ctrl.getLsbD 0 = true ∧
    exec .addrPad (idleState 3#16 .mouse) = .next (after .addrPad (idleState 3#16 .mouse)) ∧
    (idleState 3#16 .mouse).par.ackPolicy = .default := ⟨rfl, rfl, rfl, rfl⟩

/-- Each condition, by each of its causes; the address range fails first at `0x0400`. -/
theorem witness_ConditionCausesAndEffects :
    serialByteOf (.wrData 0x43#8) = some 0x43#8 ∧ (idleState 3#16 .mouse).ctrl.getLsbD 0 = true ∧
    (idleState 0x0001#16 .mouse).exchangeCondition 0x01#8 = some .noDevice ∧
    (idleState 0x2003#16 .mouse).exchangeCondition 0x01#8 = some .noDevice ∧
    (idleState 0x0003#16 .mouse).exchangeCondition 0x43#8 = some .noDevice ∧
    (padAt .mouse 1 false).exchangeCondition 0x43#8 = some .desync ∧
    (cardAt .noCmd 1).exchangeCondition 0x43#8 = some .desync ∧
    ({ cardAt .read 5 with card := { (cardAt .read 5).card with addrHi := 0x04#8 } } : State).exchangeCondition 0x00#8 =
      some .cardFault ∧
    (cardAt .read 5).exchangeCondition 0xFF#8 = none ∧
    (cardAt .write 134).exchangeCondition 0xFD#8 = some .cardFault := by decide +kernel

theorem witness_ConditionCausesAndEffects_invariant : (padAt .mouse 1 false).Inv := by constructor <;> decide +kernel

theorem witness_LatchStaysEmptyUntilExchange :
    exec .rdData { idleState 3#16 .mouse with rxData := 0x5A#8, rxPending := true } =
      .next (after .rdData { idleState 3#16 .mouse with rxData := 0x5A#8, rxPending := true }) ∧
    ((after .rdData { idleState 3#16 .mouse with rxData := 0x5A#8, rxPending := true }).runQuiet
      [.step 4#16, .rdData, .wrCtrl 0#16, .wrData 0x01#8, .rdStat]).isSome = true := ⟨rfl, by decide +kernel⟩

theorem witness_DisabledTransferIsDropped :
    serialByteOf .cardRead = some 0x52#8 ∧ (idleState 0x0002#16 .mouse).ctrl.getLsbD 0 = false := ⟨rfl, rfl⟩

theorem witness_SerialRowIsDataWrite : serialByteOf .cardWrite = some 0x57#8 := rfl

theorem witness_ClosedGateAnswersIdle :
    serialByteOf .addrPad = some 0x01#8 ∧ (idleState 0x0001#16 .mouse).ctrl.getLsbD 0 = true ∧
    (idleState 0x0001#16 .mouse).ctrl.getLsbD 1 = false ∧
    (idleState 0x2003#16 .mouse).ctrl.getLsbD 0 = true ∧ (idleState 0x2003#16 .mouse).ctrl.getLsbD 13 = true := by
  decide +kernel

/-- The three clauses take the bytes `0x01`, `0x81` and any other, here their neighbours. -/
theorem witness_AddressPhaseResolvesDevice :
    serialByteOf .addrPad = some 0x01#8 ∧ serialByteOf .addrCard = some 0x81#8 ∧
    serialByteOf (.wrData 0x82#8) = some 0x82#8 ∧ serialByteOf (.wrData 0x00#8) = some 0x00#8 ∧
    lineOpen (idleState 0x0003#16 .mouse).ctrl = true ∧ (idleState 0x0003#16 .mouse).sel = .none := by decide +kernel

theorem witness_AddressRowsSelect :
    lineOpen (idleState 0x1003#16 .analog).ctrl = true ∧ (idleState 0x1003#16 .analog).sel = .none := by decide +kernel

/-- A begin, an end by each cause, and a transaction that goes on. -/
theorem witness_TransactionBoundaries :
    exec .addrPad (idleState 3#16 .mouse) = .next (after .addrPad (idleState 3#16 .mouse)) ∧
    (after .addrPad (idleState 3#16 .mouse)).sel ≠ .none ∧
    (after (.wrData 0#8) (padAt .mouse 6 false)).sel = .none ∧ (after (.wrData 0#8) (cardAt .read 139)).sel = .none ∧
    (after (.wrData 0#8) { padAt .mouse 3 false with ctrl := 0x2003#16 }).sel = .none ∧
    (after (.wrCtrl 0x0001#16) (padAt .mouse 3 false)).sel = .none ∧ (after .reset (padAt .mouse 3 false)).sel = .none ∧
    (after .configMouse (padAt .mouse 3 false)).sel = .none ∧ (after .configCard (cardAt .read 7)).sel = .none ∧
    (after (.wrData 0#8) (padAt .mouse 3 false)).sel = .controller := ⟨rfl, by decide +kernel⟩

/-- Every stage of the mouse's table, and the first invalid one. -/
theorem witness_MouseTable :
    serialByteOf .addrPad = some 0x01#8 ∧ serialByteOf .padPoll = some 0x42#8 ∧
    ∀ k : Fin 8, lineOpen (padAt .mouse k.val false).ctrl = true ∧ (padAt .mouse k.val false).sel = .controller ∧
      (padAt .mouse k.val false).padKind = .mouse ∧ (padAt .mouse k.val false).pad.stage = k.val := by decide +kernel

/-- Every stage of the digital pad's table, and the first invalid one. -/
theorem witness_DigitalTable :
    serialByteOf .addrPad = some 0x01#8 ∧ serialByteOf .padPoll = some 0x42#8 ∧
    ∀ k : Fin 6, lineOpen (padAt .digital k.val false).ctrl = true ∧ (padAt .digital k.val false).sel = .controller ∧
      (padAt .digital k.val false).padKind = .digital ∧ (padAt .digital k.val false).pad.stage = k.val := by decide +kernel

/-- Every stage of the analog pad's table in both modes, and the first invalid one. -/
theorem witness_AnalogTable :
    serialByteOf .addrPad = some 0x01#8 ∧ serialByteOf .padPoll = some 0x42#8 ∧ serialByteOf .padMode = some 0x44#8 ∧
    ∀ (k : Fin 11) (m : Bool), lineOpen (padAt .analog k.val m).ctrl = true ∧ (padAt .analog k.val m).sel = .controller ∧
      (padAt .analog k.val m).padKind = .analog ∧ (padAt .analog k.val m).pad.stage = k.val ∧
      (padAt .analog k.val m).pad.analogMode = m := by decide +kernel

theorem witness_CommandRowsSelect :
    lineOpen (padAt .analog 1 true).ctrl = true ∧ (padAt .analog 1 true).sel = .controller ∧
    (padAt .analog 1 true).pad.stage = 1 ∧ (padAt .analog 1 true).padKind = .analog ∧
    (padAt .mouse 1 false).pad.stage = 1 ∧ (padAt .mouse 1 false).padKind ≠ .analog ∧
    lineOpen (cardAt .noCmd 1).ctrl = true ∧ (cardAt .noCmd 1).sel = .memoryCard ∧ (cardAt .noCmd 1).card.stage = 1 := by
  decide +kernel

/-- The common stages 0 to 4, and stages without a command from 2 up. -/
theorem witness_CardHeaderTable :
    serialByteOf .addrCard = some 0x81#8 ∧ serialByteOf .cardRead = some 0x52#8 ∧ serialByteOf .cardWrite = some 0x57#8 ∧
    (∀ k : Fin 3, lineOpen (cardAt .noCmd k.val).ctrl = true ∧ (cardAt .noCmd k.val).sel = .memoryCard ∧
      (cardAt .noCmd k.val).card.stage = k.val ∧ (cardAt .noCmd k.val).card.cmd = .noCmd) ∧
    (∀ k : Fin 5, lineOpen (cardAt .write k.val).ctrl = true ∧ (cardAt .write k.val).sel = .memoryCard ∧
      (cardAt .write k.val).card.stage = k.val ∧ (cardAt .write k.val).card.cmd ≠ .noCmd) := by decide +kernel

/-- The last address in range, `0x03FF`, for both commands, and the first out of range, `0x0400`. -/
theorem witness_CardAddressRange :
    serialByteOf (.wrData 0xFF#8) = some 0xFF#8 ∧ lineOpen (cardAt .read 5).ctrl = true ∧
    (cardAt .read 5).sel = .memoryCard ∧ (cardAt .read 5).card.stage = 5 ∧ (cardAt .read 5).card.cmd = .read ∧
    256 * (cardAt .read 5).card.addrHi.toNat + (0xFF#8).toNat = 1023 ∧ (cardAt .write 5).card.stage = 5 ∧
    (cardAt .write 5).card.cmd = .write ∧ 256 * (0x04#8).toNat + (0x00#8).toNat = 1024 := by decide +kernel

/-- The stages of a read from 6 to the first invalid one, by their boundaries. -/
theorem witness_CardReadTable :
    serialByteOf (.wrData 0#8) = some 0#8 ∧
    ∀ k ∈ [6, 7, 8, 9, 10, 137, 138, 139, 140], lineOpen (cardAt .read k).ctrl = true ∧
      (cardAt .read k).sel = .memoryCard ∧ (cardAt .read k).card.cmd = .read ∧ (cardAt .read k).card.stage = k := by
  decide +kernel

/-- The stages of a write from 6 to the first invalid one, by their boundaries. -/
theorem witness_CardWriteTable :
    serialByteOf (.wrData 0#8) = some 0#8 ∧
    ∀ k ∈ [6, 7, 133, 135, 136, 137, 138], lineOpen (cardAt .write k).ctrl = true ∧
      (cardAt .write k).sel = .memoryCard ∧ (cardAt .write k).card.cmd = .write ∧ (cardAt .write k).card.stage = k := by
  decide +kernel

/-- The commit at the last sector, and a wrong checksum. -/
theorem witness_CardChecksumCommitsOrAborts :
    serialByteOf (.wrData 0xFC#8) = some 0xFC#8 ∧ lineOpen (cardAt .write 134).ctrl = true ∧
    (cardAt .write 134).sel = .memoryCard ∧ (cardAt .write 134).card.cmd = .write ∧ (cardAt .write 134).card.stage = 134 ∧
    0xFC#8 = checksum (cardAt .write 134).card.addrHi (cardAt .write 134).card.addrLo (cardAt .write 134).card.buf ∧
    0xFD#8 ≠ checksum (cardAt .write 134).card.addrHi (cardAt .write 134).card.addrLo (cardAt .write 134).card.buf ∧
    (cardAt .write 134).card.addr = 1023 ∧ (cardAt .write 134).store.wf = true := by decide +kernel

/-- The first address out of range, `0x0400`, whose checksum over equal bytes is `0x04`. -/
theorem witness_OutOfRangeCommitIsRefused :
    (let s := { cardAt .write 134 with card := { (cardAt .write 134).card with addrHi := 0x04#8, addrLo := 0x00#8 } }
     lineOpen s.ctrl = true ∧ s.sel = .memoryCard ∧ s.card.cmd = .write ∧ s.card.stage = 134 ∧
     0x04#8 = checksum s.card.addrHi s.card.addrLo s.card.buf ∧ s.card.addr = 1024) := by decide +kernel

/-- An acknowledged exchange with ACKIE 1, one with ACKIE 0, and one that is not acknowledged. -/
theorem witness_AcknowledgedExchangeArms :
    serialByteOf .addrPad = some 0x01#8 ∧ (idleState 0x1003#16 .mouse).ctrl.getLsbD 0 = true ∧
    exec .addrPad (idleState 0x1003#16 .mouse) = .next (after .addrPad (idleState 0x1003#16 .mouse)) ∧
    (after .addrPad (idleState 0x1003#16 .mouse)).ack = true ∧ (idleState 0x1003#16 .mouse).ctrl.getLsbD 12 = true ∧
    (idleState 0x0003#16 .mouse).ctrl.getLsbD 12 = false ∧ (after .padPoll (idleState 0x1003#16 .mouse)).ack = false :=
  ⟨rfl, rfl, rfl, rfl, rfl, rfl, rfl⟩

/-- `ACK_IRQ_DELAY` is 4 here: runs of 3 and of 4 clock steps, with other accesses between. -/
theorem witness_IrqRisesAfterDelay :
    serialByteOf .addrPad = some 0x01#8 ∧ (idleState 0x1003#16 .mouse).ctrl.getLsbD 0 = true ∧
    (idleState 0x1003#16 .mouse).ctrl.getLsbD 12 = true ∧ (idleState 0x1003#16 .mouse).irq = false ∧
    exec .addrPad (idleState 0x1003#16 .mouse) = .next (after .addrPad (idleState 0x1003#16 .mouse)) ∧
    (after .addrPad (idleState 0x1003#16 .mouse)).ack = true ∧
    (match (after .addrPad (idleState 0x1003#16 .mouse)).runCounting [.step 1#16, .rdData, .wrCtrl 3#16, .step 2#16] with
      | some (u, n) => u.irq = false ∧ n = 3
      | none => False) ∧
    (match (after .addrPad (idleState 0x1003#16 .mouse)).runCounting [.step 1#16, .rdStat, .step 3#16] with
      | some (u, n) => u.irq = true ∧ n = 4
      | none => False) := ⟨rfl, rfl, rfl, rfl, rfl, rfl, ⟨rfl, rfl⟩, ⟨rfl, rfl⟩⟩

theorem witness_CountdownWrittenOnlyByArmClockReset :
    exec .addrPad (idleState 0x1003#16 .mouse) = .next (after .addrPad (idleState 0x1003#16 .mouse)) ∧
    (after .addrPad (idleState 0x1003#16 .mouse)).irqTimer ≠ (idleState 0x1003#16 .mouse).irqTimer ∧
    (after (.step 1#16) { idleState 0x1003#16 .mouse with irqTimer := 4 }).irqTimer ≠ 4 ∧
    (after .reset { idleState 0x1003#16 .mouse with irqTimer := 4 }).irqTimer ≠ 4 := ⟨rfl, by decide +kernel⟩

theorem witness_ConfigReplacesDevice :
    (Instr.configAnalog = .configAnalog ∧ PadKind.analog = .analog) ∧ (padAt .analog 9 true).sel = .controller ∧
    (cardAt .read 7).sel = .memoryCard := by decide +kernel

theorem witness_MousePollSequence :
    lineOpen (idleState 3#16 .mouse).ctrl = true ∧ (idleState 3#16 .mouse).sel = .none ∧
    (idleState 3#16 .mouse).padKind = .mouse := by decide +kernel

/-- Both clauses: a digital pad, and an analog pad in each mode. -/
theorem witness_PadPollSequences :
    lineOpen (idleState 3#16 .digital).ctrl = true ∧ (idleState 3#16 .digital).sel = .none ∧
    (idleState 3#16 .digital).padKind = .digital ∧ (idleState 3#16 .analog).padKind = .analog ∧
    (idleState 3#16 .analog).pad.analogMode = false ∧
    ({ idleState 3#16 .analog with pad := { stage := 0, analogMode := true } } : State).pad.analogMode = true := by
  decide +kernel

theorem witness_ModeSwitchToggles :
    lineOpen (idleState 3#16 .analog).ctrl = true ∧ (idleState 3#16 .analog).sel = .none ∧
    (idleState 3#16 .analog).padKind = .analog := by decide +kernel

theorem witness_CardWriteThenRead :
    lineOpen (idleState 3#16 .mouse).ctrl = true ∧ (idleState 3#16 .mouse).sel = .none ∧
    (idleState 3#16 .mouse).store.wf = true ∧ 1023 < 1024 := by decide +kernel

theorem witness_BadChecksumKeepsStore :
    lineOpen (idleState 3#16 .mouse).ctrl = true ∧ (idleState 3#16 .mouse).sel = .none ∧ 1 < 1024 ∧
    0x00#8 ≠ checksum (addressHigh 1) (addressLow 1) (Vector.replicate 128 0xEE#8) := by decide +kernel

theorem witness_ModeAndBaudAreInert :
    Instr.addrPad ≠ .rdMode ∧ Instr.addrPad ≠ .rdBaud ∧
    exec .addrPad (idleState 3#16 .mouse) = .next (after .addrPad (idleState 3#16 .mouse)) :=
  ⟨by decide, by decide, rfl⟩

theorem witness_ResponsesIgnoreAckPolicy :
    exec .addrPad (idleState 3#16 .mouse) = .next (after .addrPad (idleState 3#16 .mouse)) := rfl


end Sys2Proof.Tests
end

/-! ## The scope of the model (spec 00_scope.md): the step, and the model's own fields -/

namespace Sys2Proof.Machine

/-! The step (R2, R56). -/

theorem step_of_noEvent {s : State} (hp : s.pending = []) : step s = .next s := by
  simp only [step, hp]

theorem step_of_decoded {s : State} {e : Stimulus} {rest : List Stimulus} {i : Instr}
    (hp : s.pending = e :: rest) (hd : decode e = .ok i) : step s = exec i { s with pending := rest } := by
  simp only [step, hp, hd]

/-! The frame of the model's own fields: the parameters and the waiting events. -/

/-- A CTRL write leaves the parameters and the waiting events, whichever of its steps 2 and 3 apply (R97). -/
theorem execWrCtrl_keeps_par_pending {v : Half} {s t : State} (h : execWrCtrl v s = .next t) :
    t.par = s.par ∧ t.pending = s.pending := by
  obtain rfl := Host.Outcome.next.inj h
  cases ctrlIrqAck v <;> cases ctrlSelect v <;> exact ⟨rfl, rfl⟩

/-- An instruction that puts no byte on the channel leaves the parameters and the waiting events. -/
theorem exec_keeps_par_pending_of_noByte {i : Instr} {s t : State} (hi : serialByteOf i = none)
    (h : exec i s = .next t) : t.par = s.par ∧ t.pending = s.pending := by
  cases i with
  | wrCtrl v => exact execWrCtrl_keeps_par_pending h
  | step n =>
    obtain rfl := Host.Outcome.next.inj h
    exact ⟨s.advance_par n.toNat, s.advance_pending n.toNat⟩
  | rdData | rdStat | wrStat | rdMode | wrMode | rdCtrl | rdBaud | wrBaud | reset | setinBtn | setinRx | setinRy
  | setinLx | setinLy | setinDx | setinDy | configDigital | configAnalog | configMouse | configCard =>
    obtain rfl := Host.Outcome.next.inj h
    exact ⟨rfl, rfl⟩
  | wrData | addrPad | addrCard | padPoll | padMode | cardRead | cardWrite => cases hi

/-- Settles O14: an instruction either puts a byte on the channel, and is the DATA write of it, or it does not. -/
theorem execKeepsParametersAndEvents : Obligations.ExecKeepsParametersAndEvents := by
  intro i s t h
  cases hi : serialByteOf i with
  | none => exact exec_keeps_par_pending_of_noByte hi h
  | some b =>
    rw [exec_of_serialByte hi] at h
    obtain ⟨hpar, hpending, -⟩ := State.transmit_frame h
    exact ⟨hpar, hpending⟩

/-- Settles O11: the equation of a step whose next event decodes. -/
theorem stepRunsDecodedInstruction : Obligations.StepRunsDecodedInstruction :=
  fun _ _ _ _ hp hd => step_of_decoded hp hd

/-- Settles O12: the equation of a step with no event waiting. -/
theorem noEventNoChange : Obligations.NoEventNoChange :=
  fun _ hp => step_of_noEvent hp

end Sys2Proof.Machine

/-! ## The state (spec 10_state.md): which event writes which field, and the invariant -/

namespace Sys2Proof.Machine

/-! What one instruction can do to the state, said once. -/

/-- The effect of an instruction that answers, one case for each way to write the state (R91 to R99, R117, R123 to R125,
R220). -/
inductive Effect : Instr → State → State → Prop where
  /-- `RD DATA` empties the latch (R90). -/
  | latchRead {s : State} :
      Effect .rdData s ({ s with rxData := Config.idle, rxPending := false }.answer (.byte s.rxData))
  /-- The other reads only answer (R92, R94, R96, R98). -/
  | registerRead {i : Instr} {s : State} (r : BusReply)
      (hi : i = .rdStat ∨ i = .rdMode ∨ i = .rdCtrl ∨ i = .rdBaud) : Effect i s (s.answer r)
  /-- `WR STAT` (R93). -/
  | statWrite {s : State} (v : Half) : Effect (.wrStat v) s s
  /-- `WR MODE` (R95). -/
  | modeWrite {s : State} (v : Half) : Effect (.wrMode v) s { s with mode := v }
  /-- `WR CTRL` in one record: its steps 1 to 3 (R97). -/
  | ctrlWrite {s : State} (v : Half) :
      Effect (.wrCtrl v) s
        { s with
          ctrl := ctrlStored v
          irq := if ctrlIrqAck v then false else s.irq
          sel := if ctrlSelect v then s.sel else .none }
  /-- `WR BAUD` (R99). -/
  | baudWrite {s : State} (v : Half) : Effect (.wrBaud v) s { s with baud := v }
  /-- `STEP` (R117). -/
  | clock {s : State} (n : Half) : Effect (.step n) s (s.advance n.toNat)
  /-- `RESET` (R220). -/
  | engineReset {s : State} : Effect .reset s s.resetEngine
  /-- The seven SETIN events (R123). -/
  | inputWrite {i : Instr} {s : State} (inp : Input)
      (hi : (∃ b0 b1, i = .setinBtn b0 b1) ∨
        ∃ v, i = .setinRx v ∨ i = .setinRy v ∨ i = .setinLx v ∨ i = .setinLy v ∨ i = .setinDx v ∨ i = .setinDy v) :
      Effect i s { s with input := inp }
  /-- CONFIG of a pad (R124). -/
  | padConfig {i : Instr} {s : State} (k : PadKind)
      (hi : i = .configDigital ∨ i = .configAnalog ∨ i = .configMouse) : Effect i s (s.replacePad k)
  /-- CONFIG of the card (R125). -/
  | cardConfig {s : State} : Effect .configCard s s.replaceCard
  /-- A byte that TXEN 0 drops (R91). -/
  | byteDropped {i : Instr} {s : State} (b : Byte) (hi : serialByteOf i = some b) (hx : ctrlTxen s.ctrl = false) :
      Effect i s s
  /-- A byte that is exchanged (R110). -/
  | byteExchanged {i : Instr} {s : State} (b : Byte) (u : Turn) (hi : serialByteOf i = some b)
      (hx : ctrlTxen s.ctrl = true) (hu : s.exchange b = .ok u) : Effect i s u.finish

/-- A CTRL write in one record. -/
theorem execWrCtrl_eq (v : Half) (s : State) :
    execWrCtrl v s = .next
      { s with
        ctrl := ctrlStored v
        irq := if ctrlIrqAck v then false else s.irq
        sel := if ctrlSelect v then s.sel else .none } := by
  unfold execWrCtrl
  cases ctrlIrqAck v <;> cases ctrlSelect v <;> rfl

/-- An instruction that puts no byte on the channel has its own effect. -/
theorem exec_effect_of_noByte {i : Instr} {s t : State} (hi : serialByteOf i = none) (h : exec i s = .next t) :
    Effect i s t := by
  cases i with
  | wrCtrl v =>
    obtain rfl := Host.Outcome.next.inj ((execWrCtrl_eq v s).symm.trans h)
    exact .ctrlWrite v
  | wrData | addrPad | addrCard | padPoll | padMode | cardRead | cardWrite => cases hi
  | rdData => obtain rfl := Host.Outcome.next.inj h; exact .latchRead
  | rdStat | rdMode | rdCtrl | rdBaud => obtain rfl := Host.Outcome.next.inj h; exact .registerRead _ (by simp)
  | wrStat => obtain rfl := Host.Outcome.next.inj h; exact .statWrite _
  | wrMode => obtain rfl := Host.Outcome.next.inj h; exact .modeWrite _
  | wrBaud => obtain rfl := Host.Outcome.next.inj h; exact .baudWrite _
  | step => obtain rfl := Host.Outcome.next.inj h; exact .clock _
  | reset => obtain rfl := Host.Outcome.next.inj h; exact .engineReset
  | setinBtn | setinRx | setinRy | setinLx | setinLy | setinDx | setinDy =>
    obtain rfl := Host.Outcome.next.inj h; exact .inputWrite _ (by simp)
  | configDigital | configAnalog | configMouse => obtain rfl := Host.Outcome.next.inj h; exact .padConfig _ (by simp)
  | configCard => obtain rfl := Host.Outcome.next.inj h; exact .cardConfig

/-- Every instruction that answers has one of the effects. -/
theorem exec_effect {i : Instr} {s t : State} (h : exec i s = .next t) : Effect i s t := by
  cases hi : serialByteOf i with
  | none => exact exec_effect_of_noByte hi h
  | some b =>
    rw [exec_of_serialByte hi] at h
    obtain ⟨hx, rfl⟩ | ⟨hx, u, hu, rfl⟩ := State.transmit_next h
    · exact .byteDropped b hi hx
    · exact .byteExchanged b u hi hx hu

/-! What an exchange writes. -/

@[simp] theorem Turn.finish_ack (u : Turn) : u.finish.ack = u.acked := by simp [Turn.finish]

@[simp] theorem Turn.finish_irqTimer (u : Turn) :
    u.finish.irqTimer = if u.acked && ctrlAckIe u.st.ctrl then ackSteps u.st.par.ackDelay else u.st.irqTimer := by
  simp [Turn.finish]

/-- A transaction in flight has no address phase, and a new one starts with the devices at stage 0 (R112). -/
theorem State.addressPhase_cases (s : State) (b : Byte) :
    (s.sel ≠ .none ∧ s.addressPhase b = s) ∨
    (s.sel = .none ∧ s.addressPhase b =
      { s with
        pad := { s.pad with stage := 0 }
        card := { s.card with stage := 0, cmd := .noCmd }
        sel := resolve b }) := by
  by_cases h : s.sel = .none
  · exact .inr ⟨h, State.addressPhase_of_none s b h⟩
  · exact .inl ⟨h, State.addressPhase_of_some s b h⟩

/-- An exchange writes the store only by the commit of the addressed card's write (R185). -/
theorem State.exchange_store {s : State} {b : Byte} {u : Turn} (h : s.exchange b = .ok u) :
    u.st.store = s.store ∨
    (gateClosed s.ctrl = false ∧ s.sel = .memoryCard ∧ s.card.cmd = .write ∧ s.card.stage = 134 ∧ b = s.card.chk ∧
      s.store.writeSector s.card.addr s.card.buf = some u.st.store) := by
  obtain ⟨-, rfl⟩ | ⟨-, -, rfl⟩ | ⟨-, -, rfl⟩ | ⟨hg, hs, hc⟩ := State.exchange_cases h
  · exact .inl rfl
  · exact .inl (s.addressPhase_store b)
  · exact .inl (s.addressPhase_store b)
  · obtain ⟨t, ht, hst, -⟩ := State.cardTurn_ok hc
    rw [hst]
    obtain hsame | ⟨hcmd, hstage, hb, hw⟩ := cardTurn_store ht
    · exact .inl (hsame.trans (s.addressPhase_store b))
    · obtain ⟨-, he⟩ | ⟨-, he⟩ := s.addressPhase_cases b
      · rw [he] at hs hcmd hstage hb hw
        exact .inr ⟨hg, hs, hcmd, hstage, hb, hw⟩
      · rw [he] at hstage
        cases hstage

/-- An exchange writes the analog mode only at stage 9 of an addressed analog pad (R161). -/
theorem State.exchange_analogMode {s : State} {b : Byte} {u : Turn} (h : s.exchange b = .ok u) :
    u.st.pad.analogMode = s.pad.analogMode ∨ (s.sel = .controller ∧ s.padKind = .analog ∧ s.pad.stage = 9) := by
  have hphase : (s.addressPhase b).pad.analogMode = s.pad.analogMode := by
    obtain ⟨-, he⟩ | ⟨-, he⟩ := s.addressPhase_cases b <;> rw [he]
  obtain ⟨-, rfl⟩ | ⟨-, -, rfl⟩ | ⟨-, hs, rfl⟩ | ⟨-, -, hc⟩ := State.exchange_cases h
  · exact .inl rfl
  · exact .inl hphase
  · simp only [State.padTurn, handlePad_eq]
    split
    · rename_i htoggle
      obtain ⟨-, he⟩ | ⟨-, he⟩ := s.addressPhase_cases b
      · rw [he] at hs htoggle
        exact .inr ⟨hs, htoggle⟩
      · rw [he] at htoggle
        cases htoggle.2
    · exact .inl hphase
  · obtain ⟨t, -, hst, -⟩ := State.cardTurn_ok hc
    rw [hst]
    exact .inl hphase

/-! Which event can change what. -/

/-- Every write of `irq`: the countdown that runs out, the acknowledging CTRL write, reset (R32). -/
theorem Effect.irq_cases {i : Instr} {s t : State} (h : Effect i s t) :
    t.irq = s.irq ∨
    (t.irq = true ∧ ∃ n : Half, i = .step n ∧ 0 < s.irqTimer ∧ s.irqTimer ≤ n.toNat) ∨
    (t.irq = false ∧ ((∃ v : Half, i = .wrCtrl v ∧ v.getLsbD 4 = true) ∨ i = .reset)) := by
  cases h with
  | latchRead | registerRead | statWrite | modeWrite | baudWrite | inputWrite | padConfig | cardConfig
  | byteDropped => exact .inl rfl
  | ctrlWrite v =>
    cases hv : ctrlIrqAck v with
    | false => exact .inl rfl
    | true => exact .inr (.inr ⟨rfl, .inl ⟨v, rfl, hv⟩⟩)
  | clock n =>
    by_cases hn : 0 < s.irqTimer ∧ s.irqTimer ≤ n.toNat
    · exact .inr (.inl ⟨by simp [State.advance_irq, hn], n, rfl, hn⟩)
    · exact .inl (by simpa [State.advance_irq] using fun h0 hle => absurd ⟨h0, hle⟩ hn)
  | engineReset => exact .inr (.inr ⟨rfl, .inr rfl⟩)
  | byteExchanged b u _ _ hu =>
    obtain ⟨-, -, hirq, -⟩ := State.exchange_frame hu
    obtain ⟨-, -, hfin, -⟩ := u.finish_frame
    exact .inl (hfin.trans hirq)

/-- Settles O15: of the writes of `irq`, only the countdown's sets it. -/
theorem irqRaisedOnlyByClock : Obligations.IrqRaisedOnlyByClock := by
  intro i s t h hs ht
  obtain hsame | ⟨-, hclock⟩ | ⟨hclear, -⟩ := (exec_effect h).irq_cases
  · simp [hsame, hs] at ht
  · exact hclock
  · simp [hclear] at ht

/-- Settles O16: of the writes of `irq`, only CTRL's and reset's clear it. -/
theorem irqClearedOnlyByCtrlOrReset : Obligations.IrqClearedOnlyByCtrlOrReset := by
  intro i s t h hs ht
  obtain hsame | ⟨hset, -⟩ | ⟨-, hcause⟩ := (exec_effect h).irq_cases
  · simp [hsame, hs] at ht
  · simp [hset] at ht
  · exact hcause

/-- Without an exchange the two flags stay or fall. -/
theorem Effect.flags_le {i : Instr} {s t : State} (h : Effect i s t) :
    ((t.rxPending = true → s.rxPending = true) ∧ (t.ack = true → s.ack = true)) ∨
    ∃ b, serialByteOf i = some b ∧ ctrlTxen s.ctrl = true := by
  cases h with
  | registerRead | statWrite | modeWrite | ctrlWrite | baudWrite | inputWrite | padConfig | cardConfig
  | byteDropped => exact .inl ⟨id, id⟩
  | latchRead => exact .inl ⟨nofun, id⟩
  | clock => exact .inl (by simp)
  | engineReset => exact .inl ⟨nofun, nofun⟩
  | byteExchanged b _ hi hx => exact .inr ⟨b, hi, hx⟩

/-- Settles O17: a flag that rises needs an exchange. -/
theorem flagsSetOnlyByDataWrite : Obligations.FlagsSetOnlyByDataWrite := by
  intro i s t h hset
  obtain ⟨hrx, hack⟩ | hbyte := (exec_effect h).flags_le
  · obtain ⟨hs, ht⟩ | ⟨hs, ht⟩ := hset
    · exact absurd (hrx ht) (by simp [hs])
    · exact absurd (hack ht) (by simp [hs])
  · exact hbyte

/-- Settles O19: the frame of an exchange leaves both fields, and so does every event but the front-end's. -/
theorem padKindAndInputOnlyByFrontEnd : Obligations.PadKindAndInputOnlyByFrontEnd := by
  intro i s t h
  cases exec_effect h with
  | latchRead | registerRead | statWrite | modeWrite | ctrlWrite | baudWrite | engineReset | cardConfig
  | byteDropped => exact ⟨absurd rfl, absurd rfl⟩
  | clock => exact ⟨absurd (s.advance_padKind _), absurd (s.advance_input _)⟩
  | inputWrite _ hi => exact ⟨absurd rfl, fun _ => hi⟩
  | padConfig _ hi => exact ⟨fun _ => hi, absurd rfl⟩
  | byteExchanged b u _ _ hu =>
    obtain ⟨-, -, -, -, -, -, -, hkind, hinput, -⟩ := State.exchange_frame hu
    obtain ⟨-, -, -, -, -, -, hkind', hinput', -⟩ := u.finish_frame
    exact ⟨absurd (hkind'.trans hkind), absurd (hinput'.trans hinput)⟩

/-- Settles O20: an exchange writes the store only by a commit, and nothing else writes it. -/
theorem storeWrittenOnlyByCommit : Obligations.StoreWrittenOnlyByCommit := by
  intro i s t h hne
  cases exec_effect h with
  | latchRead | registerRead | statWrite | modeWrite | ctrlWrite | baudWrite | engineReset | inputWrite | padConfig
  | cardConfig | byteDropped => exact absurd rfl hne
  | clock => exact absurd (s.advance_store _) hne
  | byteExchanged b u hi hx hu =>
    obtain ⟨-, -, -, -, -, -, -, -, -, hfin, -⟩ := u.finish_frame
    rw [hfin] at hne ⊢
    obtain hsame | ⟨hg, hs, hcmd, hstage, hb, hw⟩ := State.exchange_store hu
    · exact absurd hsame hne
    · exact ⟨b, hi, by simp [lineOpen, hx, hg], hs, hcmd, hstage, hb, hw⟩

/-- Settles O21: an exchange writes the mode only at stage 9 of an analog pad, and else only a CONFIG of a pad does. -/
theorem analogModeWrittenOnlyByToggleOrConfig : Obligations.AnalogModeWrittenOnlyByToggleOrConfig := by
  intro i s t h hne
  cases exec_effect h with
  | latchRead | registerRead | statWrite | modeWrite | ctrlWrite | baudWrite | engineReset | inputWrite | cardConfig
  | byteDropped => exact absurd rfl hne
  | clock => exact absurd (congrArg Pad.analogMode (s.advance_pad _)) hne
  | padConfig _ hi => exact .inr ⟨hi, rfl⟩
  | byteExchanged b u hi _ hu =>
    obtain ⟨-, -, -, -, -, -, -, -, -, -, hfin, -⟩ := u.finish_frame
    rw [hfin] at hne
    obtain hsame | hstage := State.exchange_analogMode hu
    · exact absurd hsame hne
    · exact .inl ⟨b, hi, hstage⟩

/-- Settles O51: an exchange that does not arm leaves the countdown, and else only the clock and reset write it. -/
theorem countdownWrittenOnlyByArmClockReset : Obligations.CountdownWrittenOnlyByArmClockReset := by
  intro i s t h hne
  cases exec_effect h with
  | latchRead | registerRead | statWrite | modeWrite | ctrlWrite | baudWrite | inputWrite | padConfig | cardConfig
  | byteDropped => exact absurd rfl hne
  | clock n =>
    refine .inr (.inl ⟨n, rfl, ?_⟩)
    rw [State.advance_irqTimer] at hne ⊢
    omega
  | engineReset => exact .inr (.inr ⟨rfl, rfl⟩)
  | byteExchanged b u hi hx hu =>
    obtain ⟨hpar, -, -, htimer, -, hctrl, -⟩ := State.exchange_frame hu
    rw [Turn.finish_irqTimer, hpar, hctrl, htimer] at hne ⊢
    split at hne
    · rename_i harm
      obtain ⟨hacked, hie⟩ : u.acked = true ∧ ctrlAckIe s.ctrl = true := by simpa using harm
      exact .inl ⟨b, hi, hx, hie, u.finish_ack.trans hacked, if_pos harm⟩
    · exact absurd rfl hne

/-! MODE and BAUD are inert (R25, R27). -/

/-- A state with other values in MODE and BAUD. -/
def State.retuned (s : State) (m b : Half) : State := { s with mode := m, baud := b }

@[simp] theorem State.retuned_ctrl (s : State) (m b : Half) : (s.retuned m b).ctrl = s.ctrl := rfl
@[simp] theorem State.retuned_sel (s : State) (m b : Half) : (s.retuned m b).sel = s.sel := rfl

theorem State.addressPhase_retuned (s : State) (m b : Half) (c : Byte) :
    (s.retuned m b).addressPhase c = (s.addressPhase c).retuned m b := by
  simp only [State.addressPhase, apply_ite (State.retuned · m b)]
  rfl

theorem State.endTest_retuned (s : State) (m b : Half) : (s.retuned m b).endTest = s.endTest.retuned m b := by
  unfold State.endTest
  rw [State.retuned_sel]
  cases s.sel with
  | none => rfl
  | controller | memoryCard =>
    simp only [apply_ite (State.retuned · m b)]
    rfl

theorem State.advance_retuned (s : State) (m b : Half) (n : Nat) :
    (s.retuned m b).advance n = (s.advance n).retuned m b := by
  simp only [State.advance, apply_ite (State.retuned · m b)]
  rfl

/-- A turn of a state with other values in MODE and BAUD. -/
def Turn.retuned (u : Turn) (m b : Half) : Turn := { u with st := u.st.retuned m b }

theorem Turn.finish_retuned (u : Turn) (m b : Half) : (u.retuned m b).finish = u.finish.retuned m b := by
  rw [Turn.finish_eq, Turn.finish_eq]
  simp only [Turn.retuned, State.endTest_retuned]
  rfl

theorem State.cardTurn_retuned {s : State} {c : Byte} {u : Turn} (m b : Half) (h : s.cardTurn c = .ok u) :
    (s.retuned m b).cardTurn c = .ok (u.retuned m b) := by
  unfold State.cardTurn at h ⊢
  simp only [State.retuned]
  split at h
  · obtain rfl := Except.ok.inj h
    rfl
  · cases h

theorem State.deviceTurn_retuned {s : State} {c : Byte} {u : Turn} (m b : Half) (h : s.deviceTurn c = .ok u) :
    (s.retuned m b).deviceTurn c = .ok (u.retuned m b) := by
  unfold State.deviceTurn at h ⊢
  rw [State.retuned_sel]
  cases hs : s.sel with
  | none | controller =>
    rw [hs] at h
    obtain rfl := Except.ok.inj h
    rfl
  | memoryCard =>
    rw [hs] at h
    exact State.cardTurn_retuned m b h

theorem State.exchange_retuned {s : State} {c : Byte} {u : Turn} (m b : Half) (h : s.exchange c = .ok u) :
    (s.retuned m b).exchange c = .ok (u.retuned m b) := by
  unfold State.exchange at h ⊢
  rw [State.retuned_ctrl, State.addressPhase_retuned]
  split_ifs at h ⊢
  · obtain rfl := Except.ok.inj h
    rfl
  · exact State.deviceTurn_retuned m b h

theorem State.transmit_retuned {s t : State} {c : Byte} (m b : Half) (h : s.transmit c = .next t) :
    (s.retuned m b).transmit c = .next (t.retuned m b) := by
  obtain ⟨hx, rfl⟩ | ⟨hx, u, hu, rfl⟩ := State.transmit_next h
  · simp [State.transmit, hx]
  · simp [State.transmit, State.handleByte, hx, State.exchange_retuned m b hu, Turn.finish_retuned]

/-- Settles O59: every instruction but the two reads works the same on a retuned state, and the two writes and reset
overwrite what was retuned. -/
theorem modeAndBaudAreInert : Obligations.ModeAndBaudAreInert := by
  intro i s t m b hmode hbaud h
  cases hi : serialByteOf i with
  | some c =>
    rw [exec_of_serialByte hi] at h
    exact ⟨_, (exec_of_serialByte hi _).trans (State.transmit_retuned m b h), rfl⟩
  | none =>
    cases i with
    | rdMode => exact absurd rfl hmode
    | rdBaud => exact absurd rfl hbaud
    | wrData | addrPad | addrCard | padPoll | padMode | cardRead | cardWrite => cases hi
    | wrCtrl v =>
      obtain rfl := Host.Outcome.next.inj ((execWrCtrl_eq v s).symm.trans h)
      exact ⟨_, execWrCtrl_eq v _, rfl⟩
    | step n =>
      obtain rfl := Host.Outcome.next.inj h
      exact ⟨_, congrArg Host.Outcome.next (s.advance_retuned m b n.toNat), rfl⟩
    | rdData | rdStat | wrStat | wrMode | rdCtrl | wrBaud | reset | setinBtn | setinRx | setinRy | setinLx | setinLy
    | setinDx | setinDy | configDigital | configAnalog | configMouse | configCard =>
      obtain rfl := Host.Outcome.next.inj h
      exact ⟨_, rfl, rfl⟩

/-! The start of a run (R222). -/

/-- Settles O6: the store reads as its image, and with no event waiting the step answers the state itself. -/
theorem powerOnState : Obligations.PowerOnState :=
  have himage : ∀ k n, k < 1024 → n < 128 → State.reset.store.read (128 * k + n) = Config.cardImage k n :=
    fun _ _ hk hn => Memory.read_ofImage Config.cardImage hk hn
  have hbuf : ∀ (n : Nat) (h : n < 128), State.reset.card.buf[n] = 0#8 := fun _ h => Vector.getElem_replicate h
  ⟨rfl, rfl, rfl, rfl, rfl, rfl, rfl, rfl, rfl, rfl, rfl, rfl, rfl, rfl, rfl, rfl, hbuf, rfl, himage,
    step_of_noEvent rfl, rfl⟩

/-! The invariant, device by device (R35, R36, R41, R42). -/

/-- What the invariant says of a pad of a kind (R35, R41 (c), R162). -/
structure Pad.Legal (k : PadKind) (p : Pad) : Prop where
  stage_le : p.stage ≤ padTopStage k
  axes_need_mode : k = .analog → 5 ≤ p.stage → p.stage ≤ 8 → p.analogMode = true
  mode_only_analog : k ≠ .analog → p.analogMode = false

/-- What the invariant says of the card (R41 (c), R42 (h), R176, R189). -/
structure Card.Legal (c : Card) : Prop where
  stage_le : c.stage ≤ 139
  idle_no_command : c.stage ≤ 1 → c.cmd = .noCmd
  busy_command : 2 ≤ c.stage → c.cmd ≠ .noCmd
  write_short : c.cmd = .write → c.stage ≤ 137
  address_valid : 6 ≤ c.stage → c.addr < cardSectors

/-- The part of the invariant that also holds inside an exchange, between its steps. -/
structure State.Legal (s : State) : Prop where
  ctrl_irqack_zero : s.ctrl.getLsbD 4 = false
  timer_bounded : s.irqTimer ≤ ackSteps s.par.ackDelay
  pad : s.pad.Legal s.padKind
  card : s.card.Legal
  store_wf : s.store.wf = true

/-- The invariant is the legal state with an addressed device that is not at stage 0 (R42 (f)). -/
theorem State.inv_iff (s : State) :
    s.Inv ↔ s.Legal ∧ (s.sel = .controller → s.pad.stage ≠ 0) ∧ (s.sel = .memoryCard → s.card.stage ≠ 0) := by
  constructor
  · rintro ⟨hctrl, htimer, hpad, haxes, hmode, hcard, hidle, hbusy, hshort, haddr, hselPad, hselCard, hstore⟩
    exact ⟨⟨hctrl, htimer, ⟨hpad, haxes, hmode⟩, ⟨hcard, hidle, hbusy, hshort, haddr⟩, hstore⟩, hselPad, hselCard⟩
  · rintro ⟨⟨hctrl, htimer, ⟨hpad, haxes, hmode⟩, ⟨hcard, hidle, hbusy, hshort, haddr⟩, hstore⟩, hselPad, hselCard⟩
    exact ⟨hctrl, htimer, hpad, haxes, hmode, hcard, hidle, hbusy, hshort, haddr, hselPad, hselCard, hstore⟩

/-! The pad. -/

/-- At stage 0 only the mode counts. -/
theorem Pad.legal_of_stage_zero {k : PadKind} {p : Pad} (h0 : p.stage = 0) (hm : k ≠ .analog → p.analogMode = false) :
    p.Legal k :=
  ⟨by omega, fun _ h5 => by omega, hm⟩

theorem Pad.initial_legal (k : PadKind) : Pad.initial.Legal k := Pad.legal_of_stage_zero rfl fun _ => rfl

/-- The pad's turn keeps it legal: its axis stages are entered from stage 4 in analog mode, and the mode is toggled at
stage 9 only, which no axis stage follows (R156 to R161). -/
theorem Pad.Legal.handlePad {k : PadKind} {pad : Pad} (h : pad.Legal k) (p : AckPolicy) (inp : Input) (b : Byte) :
    (handlePad p k pad inp b).2.2.Legal k := by
  rw [handlePad_eq]
  refine ⟨padRow_next_le k pad inp b, fun hk h5 h8 => ?_, fun hk => ?_⟩
  · subst hk
    obtain ⟨hs5, hs8⟩ | ⟨hs4, hmode⟩ := analogRow_axes pad inp b h5 h8
    · exact (if_neg (by omega)).trans (h.axes_need_mode rfl hs5 hs8)
    · exact (if_neg (by omega)).trans hmode
  · exact (if_neg fun ht => hk ht.1).trans (h.mode_only_analog hk)

/-! The card. -/

/-- A card before its command. -/
theorem Card.legal_of_no_command {c : Card} (hs : c.stage ≤ 1) (hc : c.cmd = .noCmd) : c.Legal :=
  ⟨by omega, fun _ => hc, fun h => by omega, fun _ => by omega, fun h => by omega⟩

/-- A card with a command, within its sequence. -/
theorem Card.legal_of_command {c : Card} (h2 : 2 ≤ c.stage) (hs : c.stage ≤ 139) (hc : c.cmd ≠ .noCmd)
    (hw : c.cmd = .write → c.stage ≤ 137) (ha : 6 ≤ c.stage → c.addr < cardSectors) : c.Legal :=
  ⟨hs, fun h => by omega, fun _ => hc, hw, ha⟩

theorem Card.initial_legal : Card.initial.Legal := Card.legal_of_no_command (Nat.zero_le 1) rfl

theorem Card.idle_legal (c : Card) : c.idle.Legal := Card.legal_of_no_command (Nat.zero_le 1) rfl

/-- From stage 1 on a turn that ends at stage 0 leaves an idle card, so only the turns that go on have to be looked at. -/
theorem CardTurn.after_legal {t : CardTurn} {n : Nat} (hn : n ≠ 0)
    (h : t.row.next ≠ 0 → Card.Legal { t.card with stage := t.row.next }) : (t.after n).Legal := by
  unfold CardTurn.after
  split
  · exact t.card.idle_legal
  · rename_i hend
    exact h fun h0 => hend ⟨h0, hn⟩

/-- At stage 0 the turn writes the stage and nothing else (R171). -/
theorem CardTurn.after_stage_zero (t : CardTurn) : t.after 0 = { t.card with stage := t.row.next } :=
  if_neg fun h => h.2 rfl

/-- A card with a command that goes on to a stage both sequences have. -/
theorem Card.legal_at {c : Card} {n : Nat} (h2 : 2 ≤ n) (hn : n ≤ 137) (hc : c.cmd ≠ .noCmd)
    (ha : 6 ≤ n → c.addr < cardSectors) : Card.Legal { c with stage := n } :=
  Card.legal_of_command h2 (Nat.le_trans hn (by decide)) hc (fun _ => hn) ha

/-- Stage 1: the command (R172). -/
theorem cardCommand_legal {c : Card} (h1 : c.stage = 1) (m : Memory) (b : Byte) :
    ((cardCommand c m b).after c.stage).Legal := by
  refine CardTurn.after_legal (by omega) fun hnext => ?_
  obtain ⟨-, ht⟩ | ⟨-, ht⟩ | ⟨-, -, ht⟩ := cardCommand_cases c m b
  · rw [ht]
    exact Card.legal_at (by simp) (by simp) nofun (by simp)
  · rw [ht]
    exact Card.legal_at (by simp) (by simp) nofun (by simp)
  · simp [ht] at hnext

/-- Stage 5: only an address in range goes on (R176). -/
theorem cardAddressLow_legal {c : Card} {m : Memory} {b : Byte} {t : CardTurn} (h5 : c.stage = 5)
    (hc : c.cmd ≠ .noCmd) (ht : cardAddressLow c m b = .ok t) : (t.after c.stage).Legal := by
  refine CardTurn.after_legal (by omega) fun hnext => ?_
  obtain ⟨haddr, -, he⟩ | ⟨haddr, -, he⟩ | ⟨-, he⟩ := cardAddressLow_cases c m b
  · obtain rfl := Except.ok.inj (he.symm.trans ht)
    exact Card.legal_at (by simp) (by simp) hc fun _ => haddr
  · obtain rfl := Except.ok.inj (he.symm.trans ht)
    exact Card.legal_at (by simp) (by simp) hc fun _ => haddr
  · obtain rfl := Except.ok.inj (he.symm.trans ht)
    exact absurd rfl hnext

/-- Stages 6 to 139 of a read (R177 to R183). -/
theorem Card.Legal.after_read {c : Card} (h : c.Legal) (h6 : 6 ≤ c.stage) (hr : c.cmd = .read) (m : Memory) :
    (CardTurn.after { row := cardReadRow c, card := c, store := m } c.stage).Legal := by
  refine CardTurn.after_legal (by omega) fun hnext => ?_
  obtain ⟨-, h138, r, hrow⟩ | ⟨-, hrow⟩ | ⟨-, hrow⟩ := cardReadRow_cases c
  · simp only [hrow, Row.next_accept]
    exact Card.legal_of_command (by simp; omega) (by simp; omega) (by simp [hr]) (by simp [hr])
      fun _ => h.address_valid h6
  · simp [hrow] at hnext
  · simp [hrow] at hnext

/-- Stages 6 to 137 of a write (R184 to R188). -/
theorem Card.Legal.after_write {c : Card} {m : Memory} {b : Byte} {t : CardTurn} (h : c.Legal) (h6 : 6 ≤ c.stage)
    (hw : c.cmd = .write) (ht : cardWriteTurn c m b = .ok t) : (t.after c.stage).Legal := by
  refine CardTurn.after_legal (by omega) fun hnext => ?_
  have hc : c.cmd ≠ .noCmd := by simp [hw]
  have haddr : c.addr < cardSectors := h.address_valid h6
  obtain ⟨-, h133, rfl⟩ | ⟨-, -, -, m', -, rfl⟩ | ⟨-, -, rfl⟩ | ⟨-, h136, r, rfl⟩ | ⟨-, rfl⟩ | ⟨-, rfl⟩ :=
    cardWriteTurn_cases ht
  · exact Card.legal_at (by simp; omega) (by simp; omega) hc fun _ => haddr
  · exact Card.legal_at (by simp) (by simp) hc fun _ => haddr
  · exact absurd rfl hnext
  · exact Card.legal_at (by simp; omega) (by simp; omega) hc fun _ => haddr
  · exact absurd rfl hnext
  · exact absurd rfl hnext

/-- The card's turn keeps it legal, stage by stage (R170 to R190). -/
theorem Card.Legal.after {c : Card} {m : Memory} {b : Byte} {t : CardTurn} (h : c.Legal)
    (ht : Machine.cardTurn c m b = .ok t) : (t.after c.stage).Legal := by
  obtain ⟨h0, -, rfl⟩ | ⟨h0, -, rfl⟩ | ⟨h1, rfl⟩ | ⟨h2, -, rfl⟩ | ⟨h2, hc, rfl⟩ | ⟨h3, hc, rfl⟩ | ⟨h4, hc, rfl⟩ |
    ⟨h5, hc, ht⟩ | ⟨h6, hr, rfl⟩ | ⟨h6, hw, ht⟩ := cardTurn_cases ht
  · rw [h0, CardTurn.after_stage_zero]
    exact Card.legal_of_no_command (Nat.le_refl 1) (h.idle_no_command (by omega))
  · rw [h0, CardTurn.after_stage_zero]
    exact Card.legal_of_no_command (Nat.zero_le 1) (h.idle_no_command (by omega))
  · exact cardCommand_legal h1 m b
  · exact CardTurn.after_legal (by omega) (absurd rfl)
  · exact CardTurn.after_legal (by omega) fun _ => Card.legal_at (by simp) (by simp) hc (by simp)
  · exact CardTurn.after_legal (by omega) fun _ => Card.legal_at (by simp) (by simp) hc (by simp)
  · exact CardTurn.after_legal (by omega) fun _ => Card.legal_at (by simp) (by simp) hc (by simp)
  · exact cardAddressLow_legal h5 hc ht
  · exact h.after_read h6 hr m
  · exact h.after_write h6 hw ht

/-! The exchange and the step. -/

/-- The address phase puts both devices at stage 0 (R112). -/
theorem State.Legal.addressPhase {s : State} (h : s.Legal) (b : Byte) : (s.addressPhase b).Legal := by
  obtain ⟨-, he⟩ | ⟨-, he⟩ := s.addressPhase_cases b
  · rw [he]
    exact h
  · rw [he]
    exact ⟨h.ctrl_irqack_zero, h.timer_bounded, Pad.legal_of_stage_zero rfl h.pad.mode_only_analog,
      s.card.idle_legal, h.store_wf⟩

/-- No device's turn touches a device (R201). -/
theorem State.Legal.noDevice {s : State} (h : s.Legal) : s.noDevice.st.Legal :=
  ⟨h.ctrl_irqack_zero, h.timer_bounded, h.pad, h.card, h.store_wf⟩

theorem State.Legal.padTurn {s : State} (h : s.Legal) (b : Byte) : (s.padTurn b).st.Legal :=
  ⟨h.ctrl_irqack_zero, h.timer_bounded, h.pad.handlePad _ _ b, h.card, h.store_wf⟩

theorem State.Legal.cardTurn {s : State} {b : Byte} {u : Turn} (h : s.Legal) (hu : s.cardTurn b = .ok u) :
    u.st.Legal := by
  obtain ⟨t, ht, hst, -⟩ := State.cardTurn_ok hu
  have hstore : t.store.wf = true := by
    obtain hsame | ⟨-, -, -, hw⟩ := cardTurn_store ht
    · exact hsame ▸ h.store_wf
    · exact Memory.writeSector_wf h.store_wf hw
  rw [hst]
  exact ⟨h.ctrl_irqack_zero, h.timer_bounded, h.pad, h.card.after ht, hstore⟩

/-- Steps 1 to 3 of an exchange. -/
theorem State.Legal.exchange {s : State} {b : Byte} {u : Turn} (h : s.Legal) (hu : s.exchange b = .ok u) :
    u.st.Legal := by
  obtain ⟨-, rfl⟩ | ⟨-, -, rfl⟩ | ⟨-, -, rfl⟩ | ⟨-, -, hc⟩ := State.exchange_cases hu
  · exact h.noDevice
  · exact (h.addressPhase b).noDevice
  · exact (h.addressPhase b).padTurn b
  · exact (h.addressPhase b).cardTurn hc

/-- The end test writes no more than the selection (R116). -/
theorem State.Legal.endTest {s : State} (h : s.Legal) : s.endTest.Legal := by
  unfold State.endTest
  split <;> (try split) <;> exact ⟨h.ctrl_irqack_zero, h.timer_bounded, h.pad, h.card, h.store_wf⟩

/-- Arming loads the countdown with its bound (R115). -/
theorem State.Legal.answered {s : State} (h : s.Legal) (resp : Byte) (acked : Bool) : (s.answered resp acked).Legal := by
  refine ⟨h.ctrl_irqack_zero, ?_, h.pad, h.card, h.store_wf⟩
  simp only [State.answered]
  split
  · exact Nat.le_refl _
  · exact h.timer_bounded

/-- The end test leaves no device addressed at stage 0 (R116). -/
theorem State.endTest_busy (s : State) :
    (s.endTest.sel = .controller → s.endTest.pad.stage ≠ 0) ∧
    (s.endTest.sel = .memoryCard → s.endTest.card.stage ≠ 0) := by
  rw [State.endTest_sel, State.endTest_pad, State.endTest_card]
  split
  · exact ⟨nofun, nofun⟩
  · rename_i hdone
    exact ⟨fun hs h0 => hdone (.inl ⟨hs, h0⟩), fun hs h0 => hdone (.inr ⟨hs, h0⟩)⟩

/-- Steps 4 to 6 of an exchange complete the invariant. -/
theorem State.Legal.finish_inv {u : Turn} (h : u.st.Legal) : u.finish.Inv := by
  rw [Turn.finish_eq, State.inv_iff]
  exact ⟨h.endTest.answered u.resp u.acked, u.st.endTest_busy⟩

/-- A CTRL write stores bit 4 as 0 (R97). -/
theorem ctrlStored_irqack (v : Half) : (ctrlStored v).getLsbD 4 = false := by simp [ctrlStored]

/-- No effect of an instruction breaks the invariant. -/
theorem Effect.keeps_inv {i : Instr} {s t : State} (h : Effect i s t) (hs : s.Inv) : t.Inv := by
  obtain ⟨hlegal, hpadBusy, hcardBusy⟩ := s.inv_iff.1 hs
  have ⟨hctrl, htimer, hpad, hcard, hstore⟩ := hlegal
  cases h with
  | latchRead | registerRead | statWrite | modeWrite | baudWrite | inputWrite | byteDropped =>
    exact (State.inv_iff _).2 ⟨⟨hctrl, htimer, hpad, hcard, hstore⟩, hpadBusy, hcardBusy⟩
  | ctrlWrite v =>
    refine (State.inv_iff _).2 ⟨⟨ctrlStored_irqack v, htimer, hpad, hcard, hstore⟩, ?_⟩
    cases ctrlSelect v with
    | false => exact ⟨nofun, nofun⟩
    | true => exact ⟨hpadBusy, hcardBusy⟩
  | clock n =>
    have hle : (s.advance n.toNat).irqTimer ≤ ackSteps (s.advance n.toNat).par.ackDelay := by
      rw [State.advance_irqTimer, State.advance_par]
      omega
    exact (State.inv_iff _).2
      ⟨⟨by simpa using hctrl, hle, by simpa using hpad, by simpa using hcard, by simpa using hstore⟩,
        by simpa using hpadBusy, by simpa using hcardBusy⟩
  | engineReset => exact (State.inv_iff _).2 ⟨⟨by simp, Nat.zero_le _, hpad, hcard, hstore⟩, nofun, nofun⟩
  | padConfig k =>
    refine (State.inv_iff _).2 ⟨⟨hctrl, htimer, Pad.initial_legal k, hcard, hstore⟩, ?_⟩
    rw [State.replacePad_sel]
    split
    · exact ⟨nofun, nofun⟩
    · rename_i hsel
      exact ⟨fun hs => absurd hs hsel, hcardBusy⟩
  | cardConfig =>
    refine (State.inv_iff _).2 ⟨⟨hctrl, htimer, hpad, Card.initial_legal, hstore⟩, ?_⟩
    rw [State.replaceCard_sel]
    split
    · exact ⟨nofun, nofun⟩
    · rename_i hsel
      exact ⟨hpadBusy, fun hs => absurd hs hsel⟩
  | byteExchanged b u _ _ hu => exact (hlegal.exchange hu).finish_inv

/-- The invariant does not speak of the waiting events. -/
theorem State.Inv.with_pending {s : State} (h : s.Inv) (es : List Stimulus) : ({ s with pending := es } : State).Inv := by
  obtain ⟨⟨hctrl, htimer, hpad, hcard, hstore⟩, hbusy⟩ := s.inv_iff.1 h
  exact (State.inv_iff _).2 ⟨⟨hctrl, htimer, hpad, hcard, hstore⟩, hbusy⟩

/-- A step that answers found no event, or ran the next one's instruction. -/
theorem step_next {s t : State} (h : step s = .next t) :
    (s.pending = [] ∧ t = s) ∨
    ∃ e rest i, s.pending = e :: rest ∧ decode e = .ok i ∧ exec i { s with pending := rest } = .next t := by
  cases hp : s.pending with
  | nil => exact .inl ⟨rfl, Host.Outcome.next.inj (h.symm.trans (step_of_noEvent hp))⟩
  | cons e rest =>
    cases hd : decode e with
    | error why => simp [step, hp, hd] at h
    | ok i => exact .inr ⟨e, rest, i, rfl, hd, (step_of_decoded hp hd).symm.trans h⟩

/-- Settles O9: a step is the effect of the next event's instruction, and no effect breaks the invariant. -/
theorem stepKeepsInvariant : Obligations.StepKeepsInvariant := by
  intro s t hs h
  obtain ⟨-, rfl⟩ | ⟨_, rest, i, -, -, hexec⟩ := step_next h
  · exact hs
  · exact (exec_effect hexec).keeps_inv (hs.with_pending rest)

/-- The start of a run has the invariant. -/
theorem State.reset_inv : State.reset.Inv :=
  (State.inv_iff _).2
    ⟨⟨rfl, Nat.zero_le _, Pad.initial_legal _, Card.initial_legal, State.reset_store_wf⟩, nofun, nofun⟩

/-- Settles O8: whatever events wait, the start of a run has the invariant. -/
theorem powerOnSatisfiesInvariant : Obligations.PowerOnSatisfiesInvariant := State.reset_inv.with_pending

end Sys2Proof.Machine

/-! ## The address space (spec 20_memory.md): the stimuli that have a meaning, and the sector store behind the card -/

namespace Sys2Proof

/-! What the decoder answers, by the form of the stimulus. -/

theorem decode_word_eq_ok {w : Word} {i : Instr} : decode (.word w) = .ok i ↔ decodeWord w = some i := by
  cases h : decodeWord w <;> simp [decode, h]

theorem decode_word_eq_error {w : Word} :
    decode (.word w) = .error (.undefinedWord w) ↔ decodeWord w = none := by
  cases h : decodeWord w <;> simp [decode, h]

theorem decode_access_eq_ok {a : BusAccess} {i : Instr} : decode (.access a) = .ok i ↔ decodeAccess a = some i := by
  cases h : decodeAccess a <;> simp [decode, h]

theorem decode_access_eq_error {a : BusAccess} :
    decode (.access a) = .error (.undefinedAccess a) ↔ decodeAccess a = none := by
  cases h : decodeAccess a <;> simp [decode, h]

/-! Bus accesses (R51, R52, R70). -/

/-- The five reads. -/
theorem decodeRead_eq_some {off : BitVec 4} {n : Nat} {i : Instr} :
    decodeRead off n = some i ↔
      (n = 1 ∧ off = 0x0#4 ∧ i = .rdData) ∨
      (n = 2 ∧ ((off = 0x4#4 ∧ i = .rdStat) ∨ (off = 0x8#4 ∧ i = .rdMode) ∨ (off = 0xA#4 ∧ i = .rdCtrl) ∨
        (off = 0xE#4 ∧ i = .rdBaud))) := by
  unfold decodeRead
  split_ifs <;> grind

/-- The write of one byte. -/
theorem decodeWriteByte_eq_some {off : BitVec 4} {v : Byte} {i : Instr} :
    decodeWriteByte off v = some i ↔ off = 0x0#4 ∧ i = .wrData v := by
  unfold decodeWriteByte
  split_ifs <;> grind

/-- The four writes of a 16-bit number. -/
theorem decodeWriteHalf_eq_some {off : BitVec 4} {v : Half} {i : Instr} :
    decodeWriteHalf off v = some i ↔
      (off = 0x4#4 ∧ i = .wrStat v) ∨ (off = 0x8#4 ∧ i = .wrMode v) ∨ (off = 0xA#4 ∧ i = .wrCtrl v) ∨
        (off = 0xE#4 ∧ i = .wrBaud v) := by
  unfold decodeWriteHalf
  split_ifs <;> grind

/-- The offsets of the registers, by their widths. -/
theorem registerWidth_eq_some {off : BitVec 4} {n : Nat} :
    registerWidth off = some n ↔
      (n = 1 ∧ off = 0x0#4) ∨ (n = 2 ∧ (off = 0x4#4 ∨ off = 0x8#4 ∨ off = 0xA#4 ∨ off = 0xE#4)) := by
  unfold registerWidth
  split_ifs <;> grind

/-- An access decodes exactly when it has the width of the register at its offset. -/
theorem exists_decodeAccess_iff (a : BusAccess) : (∃ i, decodeAccess a = some i) ↔ a.wellFormed = true := by
  match a with
  | .read off n =>
    simp only [decodeAccess, decodeRead_eq_some, BusAccess.wellFormed, beq_iff_eq, registerWidth_eq_some]
    constructor
    · rintro ⟨i, ⟨hn, ho, -⟩ | ⟨hn, ho⟩⟩
      · exact .inl ⟨hn, ho⟩
      · exact .inr ⟨hn, by tauto⟩
    · rintro (⟨hn, ho⟩ | ⟨hn, ho⟩)
      · exact ⟨_, .inl ⟨hn, ho, rfl⟩⟩
      · rcases ho with ho | ho | ho | ho <;> simp [hn, ho]
  | .write off [] =>
    simp [decodeAccess, BusAccess.wellFormed, registerWidth_eq_some]
  | .write off [b] =>
    simp [decodeAccess, decodeWriteByte_eq_some, BusAccess.wellFormed, registerWidth_eq_some]
  | .write off [lo, hi] =>
    simp [decodeAccess, decodeWriteHalf_eq_some, BusAccess.wellFormed, registerWidth_eq_some, exists_or]
  | .write off (_ :: _ :: _ :: _) =>
    simp [decodeAccess, BusAccess.wellFormed, registerWidth_eq_some]

/-! Stimulus words (R71, R83). -/

/-- An event without operand decodes only from its one word. -/
theorem encode_of_plainEvent {k o : BitVec 4} {d : Half} {i j : Instr} (hi : encode i = .word (makeWord k o 0#16))
    (h : plainEvent d i = some j) : encode j = .word (makeWord k o d) := by
  unfold plainEvent at h
  split_ifs at h with hd
  obtain rfl := Option.some.inj h
  rw [hd, hi]

/-- An event with a byte operand decodes only from the word of its byte. -/
theorem encode_of_byteEvent {k o : BitVec 4} {d : Half} {f : Byte → Instr} {j : Instr}
    (hf : ∀ b, encode (f b) = .word (makeWord k o (0#8 ++ b))) (h : byteEvent d f = some j) :
    encode j = .word (makeWord k o d) := by
  unfold byteEvent at h
  split_ifs at h with hd
  obtain rfl := Option.some.inj h
  rw [hf, ← hd, highByte_append_lowByte]

/-- The fields an event decodes from are those of its word: the rows of `decodeFields` without operand, with a byte, with
a 16-bit number, `SETIN BTN`, the `CONFIG` of a pad, and what is none of them. -/
theorem encode_of_decodeFields {k o : BitVec 4} {d : Half} {i : Instr} (h : decodeFields k o d = some i) :
    encode i = .word (makeWord k o d) := by
  unfold decodeFields at h
  split at h
  case h_1 | h_2 | h_3 | h_4 | h_5 | h_12 | h_21 => exact encode_of_plainEvent rfl h
  case h_6 | h_14 | h_15 | h_16 | h_17 | h_18 | h_19 => exact encode_of_byteEvent (fun _ => rfl) h
  case h_7 | h_8 | h_9 | h_10 | h_11 => obtain rfl := Option.some.inj h; rfl
  case h_13 =>
    obtain rfl := Option.some.inj h
    rw [encode, highByte_append_lowByte]
  case h_20 => split at h <;> cases h <;> rfl
  case h_22 => cases h

/-- A word that decodes is the word its instruction is encoded as. -/
theorem encode_of_decodeWord {w : Word} {i : Instr} (h : decodeWord w = some i) : encode i = .word w := by
  unfold decodeWord at h
  split_ifs at h with hr
  rw [encode_of_decodeFields h, makeWord_fields hr]

/-- Every instruction is encoded in the row of its mnemonic, the table's 29 rows put together. -/
theorem tableRow : ∀ i, Laws.TableRow.Statement i
  | .rdData => Laws.TableRow.rdData
  | .wrData b => Laws.TableRow.wrData b
  | .rdStat => Laws.TableRow.rdStat
  | .wrStat v => Laws.TableRow.wrStat v
  | .rdMode => Laws.TableRow.rdMode
  | .wrMode v => Laws.TableRow.wrMode v
  | .rdCtrl => Laws.TableRow.rdCtrl
  | .wrCtrl v => Laws.TableRow.wrCtrl v
  | .rdBaud => Laws.TableRow.rdBaud
  | .wrBaud v => Laws.TableRow.wrBaud v
  | .step n => Laws.TableRow.step n
  | .reset => Laws.TableRow.reset
  | .setinBtn b0 b1 => Laws.TableRow.setinBtn b0 b1
  | .setinRx v => Laws.TableRow.setinRx v
  | .setinRy v => Laws.TableRow.setinRy v
  | .setinLx v => Laws.TableRow.setinLx v
  | .setinLy v => Laws.TableRow.setinLy v
  | .setinDx v => Laws.TableRow.setinDx v
  | .setinDy v => Laws.TableRow.setinDy v
  | .configDigital => Laws.TableRow.configDigital
  | .configAnalog => Laws.TableRow.configAnalog
  | .configMouse => Laws.TableRow.configMouse
  | .configCard => Laws.TableRow.configCard
  | .addrPad => Laws.TableRow.addrPad
  | .addrCard => Laws.TableRow.addrCard
  | .padPoll => Laws.TableRow.padPoll
  | .padMode => Laws.TableRow.padMode
  | .cardRead => Laws.TableRow.cardRead
  | .cardWrite => Laws.TableRow.cardWrite

/-- A word that decodes is covered by the row of its instruction's mnemonic. -/
theorem row_of_decodeWord {w : Word} {i : Instr} (h : decodeWord w = some i) :
    ∃ r ∈ stimulusRows, r.mnemonic = mnemonic i ∧ r.covers w = true := by
  have hrow := tableRow i
  rwa [Laws.TableRow.Statement, encode_of_decodeWord h] at hrow

/-- The mask of a row with a byte operand fixes everything but the byte. -/
theorem eq_makeWord_of_byteMask {w : Word} {k o : BitVec 4} (h : w &&& 0xFFFFFF00#32 = makeWord k o 0#16) :
    w = makeWord k o (0#8 ++ lowByte (wordData w)) := by
  apply BitVec.eq_of_getLsbD_eq; intro i hi
  have hbit := congrArg (BitVec.getLsbD · i) h
  simp only [makeWord, lowByte, wordData, BitVec.getLsbD_append, BitVec.getLsbD_and, BitVec.getLsbD_extractLsb'] at hbit ⊢
  interval_cases i <;> simp_all

/-- The mask of a row with a 16-bit operand fixes kind, offset and the zero field. -/
theorem eq_makeWord_of_operandMask {w : Word} {k o : BitVec 4} (h : w &&& 0xFFFF0000#32 = makeWord k o 0#16) :
    w = makeWord k o (wordData w) := by
  apply BitVec.eq_of_getLsbD_eq; intro i hi
  have hbit := congrArg (BitVec.getLsbD · i) h
  simp only [makeWord, wordData, BitVec.getLsbD_append, BitVec.getLsbD_and, BitVec.getLsbD_extractLsb'] at hbit ⊢
  interval_cases i <;> simp_all

/-- The decoder reads every word that the row covers. -/
def OpcodeRow.Decodes (r : OpcodeRow) : Prop := ∀ w, r.covers w = true → ∃ i, decodeWord w = some i

/-- A row without operand covers one word. -/
theorem OpcodeRow.decodes_fixed {r : OpcodeRow} {i : Instr} (hm : r.mask = 0xFFFFFFFF#32)
    (hd : decodeWord r.bits = some i) : r.Decodes := by
  intro w hw
  have hbits : w &&& BitVec.allOnes 32 = r.bits := by simpa [OpcodeRow.covers, hm] using hw
  rw [BitVec.and_allOnes] at hbits
  exact ⟨i, hbits ▸ hd⟩

/-- A row with a byte operand covers the words of the bytes. -/
theorem OpcodeRow.decodes_byte {r : OpcodeRow} (k o : BitVec 4) (f : Byte → Instr) (hm : r.mask = 0xFFFFFF00#32)
    (hb : r.bits = makeWord k o 0#16) (hd : ∀ d, decodeFields k o d = byteEvent d f) : r.Decodes := by
  intro w hw
  have hword := eq_makeWord_of_byteMask (w := w) (k := k) (o := o) (by simpa [OpcodeRow.covers, hm, hb] using hw)
  rw [hword, decodeWord_makeWord, hd]
  exact ⟨_, if_pos (highByte_append _ _)⟩

/-- A row with a 16-bit operand covers the words of the numbers. -/
theorem OpcodeRow.decodes_operand {r : OpcodeRow} (k o : BitVec 4) (f : Half → Instr) (hm : r.mask = 0xFFFF0000#32)
    (hb : r.bits = makeWord k o 0#16) (hd : ∀ d, decodeFields k o d = some (f d)) : r.Decodes := by
  intro w hw
  have hword := eq_makeWord_of_operandMask (w := w) (k := k) (o := o) (by simpa [OpcodeRow.covers, hm, hb] using hw)
  rw [hword, decodeWord_makeWord, hd]
  exact ⟨_, rfl⟩

/-- The rows of the bus accesses, in the table's order: each read, then the write at its offset. -/
theorem busRows_decode : ∀ r ∈ busRows, r.Decodes := by
  simp only [busRows, List.forall_mem_cons]
  refine ⟨OpcodeRow.decodes_fixed rfl rfl,
    OpcodeRow.decodes_byte 0x1#4 0x0#4 .wrData rfl rfl fun _ => rfl,
    OpcodeRow.decodes_fixed rfl rfl,
    OpcodeRow.decodes_operand 0x1#4 0x4#4 .wrStat rfl rfl fun _ => rfl,
    OpcodeRow.decodes_fixed rfl rfl,
    OpcodeRow.decodes_operand 0x1#4 0x8#4 .wrMode rfl rfl fun _ => rfl,
    OpcodeRow.decodes_fixed rfl rfl,
    OpcodeRow.decodes_operand 0x1#4 0xA#4 .wrCtrl rfl rfl fun _ => rfl,
    OpcodeRow.decodes_fixed rfl rfl,
    OpcodeRow.decodes_operand 0x1#4 0xE#4 .wrBaud rfl rfl fun _ => rfl,
    nofun⟩

/-- The rows of the environment's events: STEP and RESET, the seven SETIN, the four CONFIG. -/
theorem eventRows_decode : ∀ r ∈ eventRows, r.Decodes := by
  simp only [eventRows, List.forall_mem_cons]
  refine ⟨OpcodeRow.decodes_operand 0x2#4 0x0#4 .step rfl rfl fun _ => rfl,
    OpcodeRow.decodes_fixed rfl rfl,
    OpcodeRow.decodes_operand 0x4#4 0x0#4 (fun d => .setinBtn (lowByte d) (highByte d)) rfl rfl fun _ => rfl,
    OpcodeRow.decodes_byte 0x4#4 0x1#4 .setinRx rfl rfl fun _ => rfl,
    OpcodeRow.decodes_byte 0x4#4 0x2#4 .setinRy rfl rfl fun _ => rfl,
    OpcodeRow.decodes_byte 0x4#4 0x3#4 .setinLx rfl rfl fun _ => rfl,
    OpcodeRow.decodes_byte 0x4#4 0x4#4 .setinLy rfl rfl fun _ => rfl,
    OpcodeRow.decodes_byte 0x4#4 0x5#4 .setinDx rfl rfl fun _ => rfl,
    OpcodeRow.decodes_byte 0x4#4 0x6#4 .setinDy rfl rfl fun _ => rfl,
    OpcodeRow.decodes_fixed rfl rfl,
    OpcodeRow.decodes_fixed rfl rfl,
    OpcodeRow.decodes_fixed rfl rfl,
    OpcodeRow.decodes_fixed rfl rfl,
    nofun⟩

/-- A word decodes exactly when a row of the table covers it. -/
theorem exists_decodeWord_iff (w : Word) : (∃ i, decodeWord w = some i) ↔ wordWellFormed w = true := by
  rw [wordWellFormed, List.any_eq_true]
  constructor
  · rintro ⟨i, hi⟩
    obtain ⟨r, hr, -, hcovers⟩ := row_of_decodeWord hi
    exact ⟨r, hr, hcovers⟩
  · rintro ⟨r, hr, hcovers⟩
    obtain hbus | hevent := List.mem_append.1 hr
    · exact busRows_decode r hbus w hcovers
    · exact eventRows_decode r hevent w hcovers

/-- The decoder accepts the well-formed stimuli, form by form. -/
theorem exists_decode_iff : ∀ e : Stimulus, (∃ i, decode e = .ok i) ↔ e.wellFormed = true
  | .word w => by simpa only [decode_word_eq_ok, Stimulus.wellFormed] using exists_decodeWord_iff w
  | .access a => by simpa only [decode_access_eq_ok, Stimulus.wellFormed] using exists_decodeAccess_iff a
  | .serial b => ⟨fun _ => rfl, fun _ => ⟨decodeSerial b, rfl⟩⟩

/-- Settles O3: a stimulus that is not well formed decodes to nothing, and a word that decodes is the encoding of its
instruction, which lies in the row of its mnemonic. -/
theorem decoderAcceptsExactlyTheTable : Obligations.DecoderAcceptsExactlyTheTable := by
  refine ⟨exists_decode_iff, fun w hw => ?_, fun a ha => ?_, fun _ _ h => row_of_decodeWord h⟩
  · refine decode_word_eq_error.2 (Option.eq_none_iff_forall_ne_some.2 fun i hi => ?_)
    simp [(exists_decodeWord_iff w).1 ⟨i, hi⟩] at hw
  · refine decode_access_eq_error.2 (Option.eq_none_iff_forall_ne_some.2 fun i hi => ?_)
    simp [(exists_decodeAccess_iff a).1 ⟨i, hi⟩] at ha

end Sys2Proof

namespace Sys2Proof.Machine

/-! The step on what the decoder turns away, and from the invariant (R52, R216). -/

/-- A step whose next event does not decode is refused by the decoder's name for it (R52, R71). -/
theorem step_of_undecoded {s : State} {e : Stimulus} {rest : List Stimulus} {why : DecodeError}
    (hp : s.pending = e :: rest) (hd : decode e = .error why) : step s = .refused (.undefinedStimulus why) := by
  simp only [step, hp, hd]

/-- Settles O4: the decoder's reads and writes by the number of their bytes, and the step on an access that is none of
them. -/
theorem busAccessIsOneOfTen : Obligations.BusAccessIsOneOfTen := by
  refine ⟨fun a i => ⟨fun h => ?_, ?_⟩, fun s a rest hp hno => ?_⟩
  · rw [decode_access_eq_ok] at h
    match a with
    | .read off n => rcases decodeRead_eq_some.1 h with h | ⟨hn, h | h | h | h⟩ <;> simp [*]
    | .write off [] => cases h
    | .write off [b] => simp [decodeWriteByte_eq_some.1 h]
    | .write off [lo, hi] => rcases decodeWriteHalf_eq_some.1 h with h | h | h | h <;> simp [h]
    | .write off (_ :: _ :: _ :: _) => cases h
  · rintro (⟨rfl, rfl⟩ | ⟨_, rfl, rfl⟩ | ⟨rfl, rfl⟩ | ⟨_, _, rfl, rfl⟩ | ⟨rfl, rfl⟩ | ⟨_, _, rfl, rfl⟩ | ⟨rfl, rfl⟩ |
      ⟨_, _, rfl, rfl⟩ | ⟨rfl, rfl⟩ | ⟨_, _, rfl, rfl⟩) <;> rfl
  · refine step_of_undecoded hp (decode_access_eq_error.2 (Option.eq_none_iff_forall_ne_some.2 fun i hi => ?_))
    exact hno i (decode_access_eq_ok.2 hi)

/-- An instruction answers in every state whose card holds an address in range where a commit needs it. -/
theorem exec_answers (i : Instr) {s : State} (h : s.card.stage = 134 → s.card.addr < cardSectors) :
    ∃ t, exec i s = .next t := by
  cases hi : serialByteOf i with
  | none =>
    cases i with
    | wrData | addrPad | addrCard | padPoll | padMode | cardRead | cardWrite => cases hi
    | wrCtrl v => exact ⟨_, execWrCtrl_eq v s⟩
    | _ => exact ⟨_, rfl⟩
  | some b =>
    obtain ⟨u, hu⟩ := State.exchange_answers b h
    rw [exec_of_serialByte hi, State.transmit, State.handleByte, hu]
    split_ifs <;> exact ⟨_, rfl⟩

/-- Settles O10: the next event decodes exactly when it is well formed, and under the invariant its instruction answers. -/
theorem stepAnswersDefinedEvents : Obligations.StepAnswersDefinedEvents := by
  intro s hs
  cases hp : s.pending with
  | nil => exact ⟨fun _ => ⟨s, step_of_noEvent hp⟩, by simp [State.nextDefined, hp]⟩
  | cons e rest =>
    have hdefined : s.nextDefined = e.wellFormed := by simp only [State.nextDefined, hp]
    rw [hdefined]
    constructor
    · intro he
      obtain ⟨i, hi⟩ := (exists_decode_iff e).2 he
      rw [step_of_decoded hp hi]
      exact exec_answers i fun h134 => hs.card_address_valid (h134 ▸ by decide)
    · intro he
      cases hd : decode e with
      | ok i => simp [(exists_decode_iff e).1 ⟨i, hd⟩] at he
      | error why => exact ⟨why, step_of_undecoded hp hd⟩

/-! The serial rows and the card's refusal (R50, R61). -/

/-- Settles O33: an instruction that carries a byte is the DATA write of it, and so is `WR DATA` itself. -/
theorem serialRowIsDataWrite : Obligations.SerialRowIsDataWrite :=
  fun _ _ s hi => exec_of_serialByte hi s

/-- A byte that the addressed card refuses is refused by the machine. -/
theorem State.transmit_card_refused {s : State} {b : Byte} {r : Refusal} (ho : lineOpen s.ctrl = true)
    (hs : s.sel = .memoryCard) (hr : Machine.cardTurn s.card s.store b = .error r) : s.transmit b = .refused r := by
  obtain ⟨htxen, hgate⟩ := lineOpen_eq ho
  simp [State.transmit, htxen, State.handleByte, State.exchange, hgate, State.addressPhase_of_some s b (by simp [hs]),
    State.deviceTurn, hs, State.cardTurn, handleCard, hr]

/-- The card's turn at the checksum stage of a write is the commit (R185). -/
theorem cardTurn_commit {c : Card} {m : Memory} {b : Byte} (hc : c.cmd = .write) (h134 : c.stage = 134) :
    Machine.cardTurn c m b = cardCommit c m b := by
  rw [cardTurn_data (by omega) (by simp [hc])]
  simp [hc, cardWriteTurn, h134]

/-- Settles O47: the store has no such sector to write, and the invariant holds the address in range from stage 6 on. -/
theorem outOfRangeCommitIsRefused : Obligations.OutOfRangeCommitIsRefused := by
  intro i b s hi ho hs hc h134 hb haddr
  have hrange : ¬ s.card.addr < cardSectors := Nat.not_lt.2 haddr
  constructor
  · rw [exec_of_serialByte hi]
    refine State.transmit_card_refused ho hs ?_
    have hgood : b = s.card.chk := hb
    rw [cardTurn_commit hc h134, cardCommit, if_pos hgood, Memory.writeSector, if_neg hrange]
  · exact fun hinv => hrange (hinv.card_address_valid (by omega))

end Sys2Proof.Machine

/-! A conversation with the card (R170): what a run of bytes makes of the card and the store, whatever else the state
holds. -/

namespace Sys2Proof.Machine

/-- The state as far as a card transaction sees it: an open line, the card, the store, and the card addressed until its
sequence ends at stage 0 (R42 (f), R116). -/
structure State.Holds (s : State) (c : Card) (m : Memory) : Prop where
  line_open : lineOpen s.ctrl = true
  card_eq : s.card = c
  store_eq : s.store = m
  sel_eq : s.sel = if c.stage = 0 then .none else .memoryCard

/-- From every state with the card `c` and the store `m`, the bytes `bs` are answered with `rs` and leave the card `c'` and
the store `m'`. -/
def Dialogue (c : Card) (m : Memory) (bs rs : List Byte) (c' : Card) (m' : Memory) : Prop :=
  ∀ s : State, s.Holds c m → ∃ t, s.sendBytes bs = some (t, rs) ∧ t.Holds c' m'

/-- One byte of a run of DATA writes. -/
theorem State.sendBytes_singleton {s t : State} {b : Byte} (h : exec (.wrData b) s = .next t) :
    s.sendBytes [b] = some (t, [t.rxData]) := by
  simp [State.sendBytes, h]

/-- A run of DATA writes in two parts. -/
theorem State.sendBytes_append {t u : State} {bs' rs' : List Byte} : ∀ {s : State} {bs rs : List Byte},
    s.sendBytes bs = some (t, rs) → t.sendBytes bs' = some (u, rs') →
    s.sendBytes (bs ++ bs') = some (u, rs ++ rs')
  | s, [], rs, h, h' => by
    simp only [State.sendBytes, Option.some.injEq, Prod.mk.injEq] at h
    obtain ⟨rfl, rfl⟩ := h
    exact h'
  | s, b :: bs, rs, h, h' => by
    rw [State.sendBytes] at h
    split at h
    next v hv =>
      split at h
      next w ws hw =>
        simp only [Option.some.injEq, Prod.mk.injEq] at h
        obtain ⟨rfl, rfl⟩ := h
        simp [State.sendBytes, hv, State.sendBytes_append hw h']
      next => cases h
    next => cases h

theorem Dialogue.nil (c : Card) (m : Memory) : Dialogue c m [] [] c m := fun s h => ⟨s, rfl, h⟩

theorem Dialogue.trans {c c' c'' : Card} {m m' m'' : Memory} {bs rs bs' rs' : List Byte} (h : Dialogue c m bs rs c' m')
    (h' : Dialogue c' m' bs' rs' c'' m'') : Dialogue c m (bs ++ bs') (rs ++ rs') c'' m'' := by
  intro s hs
  obtain ⟨t, hsend, ht⟩ := h s hs
  obtain ⟨u, hsend', hu⟩ := h' t ht
  exact ⟨u, State.sendBytes_append hsend hsend', hu⟩

/-- What a DATA write leaves on an open line to the addressed card, from the card's turn. -/
theorem State.exec_card {s : State} {b : Byte} {t : CardTurn} (ho : lineOpen s.ctrl = true) (hs : s.sel = .memoryCard)
    (ht : Machine.cardTurn s.card s.store b = .ok t) :
    ∃ u, exec (.wrData b) s = .next u ∧ u.rxData = t.row.resp ∧ u.Holds (t.after s.card.stage) t.store :=
  ⟨_, State.transmit_card ho hs ht, rfl, ho, rfl, rfl, rfl⟩

/-- One byte is one turn of the addressed card. -/
theorem Dialogue.turn {c : Card} {m : Memory} {b : Byte} {t : CardTurn} (hc : c.stage ≠ 0)
    (ht : Machine.cardTurn c m b = .ok t) : Dialogue c m [b] [t.row.resp] (t.after c.stage) t.store := by
  rintro s ⟨ho, rfl, rfl, hsel⟩
  rw [if_neg hc] at hsel
  obtain ⟨u, hexec, hresp, hu⟩ := State.exec_card ho hsel ht
  exact ⟨u, hresp ▸ State.sendBytes_singleton hexec, hu⟩

/-- A byte after which the sequence goes on. -/
theorem Dialogue.accept {c c' c'' : Card} {m m' : Memory} {b r : Byte} {n : Nat} (hc : c.stage ≠ 0) (hn : n ≠ 0)
    (ht : Machine.cardTurn c m b = .ok { row := .accept r n, card := c', store := m' })
    (hc' : { c' with stage := n } = c'') : Dialogue c m [b] [r] c'' m' := by
  have h := Dialogue.turn hc ht
  rwa [CardTurn.after, if_neg fun hend => hn hend.1, Row.next_accept, hc'] at h

/-- The last byte of a sequence leaves the card idle (R190). -/
theorem Dialogue.finish {c c' c'' : Card} {m m' : Memory} {b r : Byte} (hc : c.stage ≠ 0)
    (ht : Machine.cardTurn c m b = .ok { row := .accept r 0, card := c', store := m' }) (hc' : c'.idle = c'') :
    Dialogue c m [b] [r] c'' m' := by
  have h := Dialogue.turn hc ht
  rwa [CardTurn.after, if_pos ⟨rfl, hc⟩, hc'] at h

/-- The address phase taken before the exchange makes no difference to it: a device is addressed after it (R112). -/
theorem State.transmit_addressPhase {s : State} (b : Byte) (ho : lineOpen s.ctrl = true)
    (hs : (s.addressPhase b).sel ≠ .none) : (s.addressPhase b).transmit b = s.transmit b := by
  obtain ⟨htxen, hgate⟩ := lineOpen_eq ho
  simp [State.transmit, State.handleByte, State.exchange, htxen, hgate, State.addressPhase_of_some _ b hs]

/-- The address byte of the card starts a transaction, whatever the card held (R112, R171). -/
theorem State.select_card {s : State} (ho : lineOpen s.ctrl = true) (hs : s.sel = .none) :
    ∃ t, s.sendBytes [0x81#8] = some (t, [0xFF#8]) ∧ t.Holds { s.card with stage := 1, cmd := .noCmd } s.store := by
  have hphase := State.addressPhase_of_none s 0x81#8 hs
  have hsel : (s.addressPhase 0x81#8).sel = .memoryCard := by rw [hphase]; rfl
  have hturn : Machine.cardTurn (s.addressPhase 0x81#8).card (s.addressPhase 0x81#8).store 0x81#8 =
      .ok { row := .accept 0xFF#8 1, card := s.card.idle, store := s.store } := by rw [hphase]; rfl
  obtain ⟨t, hexec, (hresp : t.rxData = 0xFF#8), ht⟩ := State.exec_card (by simpa using ho) hsel hturn
  have hexec : exec (.wrData 0x81#8) s = .next t :=
    (State.transmit_addressPhase _ ho (by simp [hsel])).symm.trans hexec
  have hstage : (s.addressPhase 0x81#8).card.stage = 0 := by rw [hphase]
  rw [hstage, CardTurn.after_stage_zero] at ht
  exact ⟨t, hresp ▸ State.sendBytes_singleton hexec, ht⟩

/-- A whole transaction with the card: its address byte, then a conversation from stage 1. -/
theorem State.card_transaction {s : State} {bs rs : List Byte} {c : Card} {m : Memory} (ho : lineOpen s.ctrl = true)
    (hs : s.sel = .none) (h : Dialogue { s.card with stage := 1, cmd := .noCmd } s.store bs rs c m) :
    ∃ t, s.sendBytes (0x81#8 :: bs) = some (t, 0xFF#8 :: rs) ∧ t.Holds c m := by
  obtain ⟨t, hsend, ht⟩ := State.select_card ho hs
  obtain ⟨u, hsend', hu⟩ := h t ht
  exact ⟨u, State.sendBytes_append hsend hsend', hu⟩

/-! The header of both sequences (R172 to R176). -/

/-- Stage 2 with a command (R173). -/
theorem cardTurn_id1 {c : Card} {m : Memory} {b : Byte} (hc : c.cmd ≠ .noCmd) (hs : c.stage = 2) :
    Machine.cardTurn c m b = .ok { row := .accept cardId1 3, card := c, store := m } := by
  simp [Machine.cardTurn, hs, hc]

/-- Stage 3 with a command (R174). -/
theorem cardTurn_id2 {c : Card} {m : Memory} {b : Byte} (hc : c.cmd ≠ .noCmd) (hs : c.stage = 3) :
    Machine.cardTurn c m b = .ok { row := .accept cardId2 4, card := c, store := m } := by
  simp [Machine.cardTurn, hs, hc]

/-- Stage 4 with a command takes the high byte of the address (R175). -/
theorem cardTurn_addressHigh {c : Card} {m : Memory} {b : Byte} (hc : c.cmd ≠ .noCmd) (hs : c.stage = 4) :
    Machine.cardTurn c m b = .ok { row := .accept cardAddrAnswer 5, card := { c with addrHi := b }, store := m } := by
  simp [Machine.cardTurn, hs, hc]

/-- Stage 5 with a command is the range check (R176). -/
theorem cardTurn_addressLow {c : Card} {m : Memory} {b : Byte} (hc : c.cmd ≠ .noCmd) (hs : c.stage = 5) :
    Machine.cardTurn c m b = cardAddressLow c m b := by
  simp [Machine.cardTurn, hs, hc]

/-- From the command byte, which the card takes as `cmd`, to the high byte of the address (R172 to R175). -/
theorem Dialogue.header {c : Card} {m : Memory} {b : Byte} {cmd : CardCommand} (x y hi : Byte) (hs : c.stage = 1)
    (hcmd : cmd ≠ .noCmd)
    (hb : cardCommand c m b = { row := .accept c.flag 2, card := { c with cmd := cmd }, store := m }) :
    Dialogue c m [b, x, y, hi] [c.flag, 0x5A#8, 0x5D#8, 0x00#8] { c with stage := 5, cmd := cmd, addrHi := hi } m := by
  have hturn : Machine.cardTurn c m b = .ok (cardCommand c m b) := by simp [Machine.cardTurn, hs]
  have h1 : Dialogue c m [b] [c.flag] { c with stage := 2, cmd := cmd } m :=
    Dialogue.accept (by simp [hs]) (by simp) (hturn.trans (congrArg Except.ok hb)) rfl
  have h2 : Dialogue { c with stage := 2, cmd := cmd } m [x] [0x5A#8] { c with stage := 3, cmd := cmd } m :=
    Dialogue.accept (by simp) (by simp) (cardTurn_id1 hcmd rfl) rfl
  have h3 : Dialogue { c with stage := 3, cmd := cmd } m [y] [0x5D#8] { c with stage := 4, cmd := cmd } m :=
    Dialogue.accept (by simp) (by simp) (cardTurn_id2 hcmd rfl) rfl
  have h4 : Dialogue { c with stage := 4, cmd := cmd } m [hi] [0x00#8] { c with stage := 5, cmd := cmd, addrHi := hi } m :=
    Dialogue.accept (by simp) (by simp) (cardTurn_addressHigh hcmd rfl) rfl
  exact h1.trans (h2.trans (h3.trans h4))

/-- The two bytes of a sector index name that sector (R74). -/
theorem sectorIndex_address {k : Nat} (hk : k < 1024) : sectorIndex (addressHigh k) (addressLow k) = k := by
  rw [sectorIndex_eq]
  simp only [addressHigh, addressLow, BitVec.toNat_ofNat]
  omega

/-- The low byte of an address in range: a read fetches its sector (R176). -/
theorem Dialogue.addressLow_read {c : Card} {m : Memory} {k : Nat} (hk : k < 1024) (hc : c.cmd = .read) (hs : c.stage = 5)
    (hhi : c.addrHi = addressHigh k) :
    Dialogue c m [addressLow k] [addressHigh k] { c with stage := 6, addrLo := addressLow k, buf := m.sector k } m := by
  have hindex : sectorIndex c.addrHi (addressLow k) = k := hhi ▸ sectorIndex_address hk
  obtain ⟨-, -, he⟩ | ⟨-, hread, -⟩ | ⟨hrange, -⟩ := cardAddressLow_cases c m (addressLow k)
  · rw [hindex, hhi, ← cardTurn_addressLow (by simp [hc]) hs] at he
    exact Dialogue.accept (by omega) (by simp) he (by rw [hhi])
  · exact absurd hc hread
  · exact absurd hrange (by rw [hindex]; exact Nat.not_le.2 hk)

/-- The low byte of an address in range: a write goes on with the buffer it has (R176). -/
theorem Dialogue.addressLow_write {c : Card} {m : Memory} {k : Nat} (hk : k < 1024) (hc : c.cmd = .write)
    (hs : c.stage = 5) (hhi : c.addrHi = addressHigh k) :
    Dialogue c m [addressLow k] [addressHigh k] { c with stage := 6, addrLo := addressLow k } m := by
  have hindex : sectorIndex c.addrHi (addressLow k) = k := hhi ▸ sectorIndex_address hk
  obtain ⟨-, hread, -⟩ | ⟨-, -, he⟩ | ⟨hrange, -⟩ := cardAddressLow_cases c m (addressLow k)
  · simp [hc] at hread
  · rw [hhi, ← cardTurn_addressLow (by simp [hc]) hs] at he
    exact Dialogue.accept (by omega) (by simp) he (by rw [hhi])
  · exact absurd hrange (by rw [hindex]; exact Nat.not_le.2 hk)

/-! The write sequence (R184 to R188). -/

/-- From stage 6 on a write is its own table. -/
theorem cardTurn_write {c : Card} {m : Memory} {b : Byte} (hw : c.cmd = .write) (h6 : 6 ≤ c.stage) :
    Machine.cardTurn c m b = cardWriteTurn c m b := by
  simp [cardTurn_data h6, hw]

/-- The data stages: byte `n` goes to the buffer (R184). -/
theorem cardTurn_write_data {c : Card} {m : Memory} {n : Nat} (b : Byte) (hw : c.cmd = .write) (hn : n < 128)
    (hs : c.stage = 6 + n) :
    Machine.cardTurn c m b =
      .ok { row := .accept (c.echo n) (6 + (n + 1)), card := { c with buf := c.buf.set n b }, store := m } := by
  rw [cardTurn_write hw (by omega), cardWriteTurn, if_pos (by omega), show c.stage - 6 = n by omega,
    show c.stage + 1 = 6 + (n + 1) by omega, Card.staged_eq c b hn]

/-- The buffer `old` with the first `n` bytes of `d` received. -/
def received (d old : Sector) (n : Nat) : Sector := Vector.ofFn fun i => if i.val < n then d[i] else old[i]

theorem received_zero (d old : Sector) : received d old 0 = old := by
  refine Vector.ext fun i hi => ?_
  simp [received]

theorem received_all (d old : Sector) : received d old 128 = d := by
  refine Vector.ext fun i hi => ?_
  simp [received]

theorem received_succ (d old : Sector) {n : Nat} (hn : n < 128) :
    (received d old n).set n d[n] = received d old (n + 1) := by
  refine Vector.ext fun i hi => ?_
  simp only [received, Vector.getElem_set, Vector.getElem_ofFn]
  grind

/-- A data byte is answered with the byte before it (R184). -/
theorem Card.echo_received {c : Card} (d : Sector) {n : Nat} (hn : n < 128) :
    Card.echo { c with buf := received d c.buf n } n = (c.addrLo :: d.toList)[n]'(by simp; omega) := by
  cases n with
  | zero => rfl
  | succ n => simp [Card.echo, Card.bufAt_eq _ (show n < 128 by omega), received]

/-- The first `n` data bytes of a write. -/
theorem Dialogue.write_data {c : Card} (m : Memory) (d : Sector) (hw : c.cmd = .write) : ∀ n ≤ 128,
    Dialogue { c with stage := 6 } m (d.toList.take n) ((c.addrLo :: d.toList).take n)
      { c with stage := 6 + n, buf := received d c.buf n } m
  | 0, _ => by
    rw [received_zero]
    exact Dialogue.nil _ m
  | n + 1, hn => by
    have hbyte : Dialogue { c with stage := 6 + n, buf := received d c.buf n } m [d[n]]
        [(c.addrLo :: d.toList)[n]'(by simp; omega)] { c with stage := 6 + (n + 1), buf := received d c.buf (n + 1) } m := by
      rw [← Card.echo_received d hn, ← received_succ d c.buf hn]
      exact Dialogue.accept (by simp) (by simp)
        (cardTurn_write_data (c := { c with stage := 6 + n, buf := received d c.buf n }) d[n] hw hn rfl) rfl
    rw [List.take_succ_eq_append_getElem (by simp; omega), List.take_succ_eq_append_getElem (by simp; omega)]
    exact (Dialogue.write_data m d hw n (by omega)).trans hbyte

/-- The last three bytes of a write (R186 to R188). -/
theorem Dialogue.write_end {c : Card} (m : Memory) (x y z : Byte) (hw : c.cmd = .write) :
    Dialogue { c with stage := 135 } m [x, y, z] [0x5C#8, 0x5D#8, 0x47#8] { c with stage := 0, cmd := .noCmd } m := by
  have h135 : Dialogue { c with stage := 135 } m [x] [0x5C#8] { c with stage := 136 } m :=
    Dialogue.accept (by simp) (by simp) ((cardTurn_write (by exact hw) (by simp)).trans rfl) rfl
  have h136 : Dialogue { c with stage := 136 } m [y] [0x5D#8] { c with stage := 137 } m :=
    Dialogue.accept (by simp) (by simp) ((cardTurn_write (by exact hw) (by simp)).trans rfl) rfl
  have h137 : Dialogue { c with stage := 137 } m [z] [0x47#8] { c with stage := 0, cmd := .noCmd } m :=
    Dialogue.finish (by simp) ((cardTurn_write (by exact hw) (by simp)).trans rfl) rfl
  exact h135.trans (h136.trans h137)

/-- The good checksum commits the sector, and the card is used (R185). -/
theorem Dialogue.write_commit {c : Card} {m m' : Memory} (hw : c.cmd = .write) (h134 : c.stage = 134)
    (hm : m.writeSector c.addr c.buf = some m') :
    Dialogue c m [c.chk] [c.buf[127]] { c with stage := 135, fresh := false } m' := by
  rw [← Card.bufAt_eq c (by decide)]
  refine Dialogue.accept (c' := { c with fresh := false }) (by omega) (by simp) ?_ rfl
  rw [cardTurn_commit hw h134, cardCommit, if_pos rfl, hm]

/-- A write from its command byte to its last data byte, where the checksum is expected (R172 to R176, R184). -/
theorem Dialogue.write_to_checksum {c : Card} (m : Memory) (d : Sector) {k : Nat} (hk : k < 1024) (hs : c.stage = 1) :
    Dialogue c m ([0x57#8, 0x00#8, 0x00#8, addressHigh k, addressLow k] ++ d.toList)
      ([c.flag, 0x5A#8, 0x5D#8, 0x00#8, addressHigh k] ++ (addressLow k :: d.toList).take 128)
      { c with stage := 134, cmd := .write, addrHi := addressHigh k, addrLo := addressLow k, buf := d } m := by
  have hheader : Dialogue c m [0x57#8, 0x00#8, 0x00#8, addressHigh k] [c.flag, 0x5A#8, 0x5D#8, 0x00#8]
      { c with stage := 5, cmd := .write, addrHi := addressHigh k } m :=
    Dialogue.header _ _ _ hs (by simp) rfl
  have hdata := Dialogue.write_data (c := { c with cmd := .write, addrHi := addressHigh k, addrLo := addressLow k }) m d rfl
    128 (Nat.le_refl _)
  rw [received_all, List.take_of_length_le (l := d.toList) (by simp)] at hdata
  exact hheader.trans ((Dialogue.addressLow_write hk rfl rfl rfl).trans hdata)

/-- A write from its command byte to its end: every byte from the address on is answered with the one before it, and the
sector is in the store (R172 to R188). -/
theorem Dialogue.write_sector {c : Card} {m m' : Memory} {d : Sector} {k : Nat} (hk : k < 1024) (hs : c.stage = 1)
    (hm : m.writeSector k d = some m') :
    Dialogue c m
      ([0x57#8, 0x00#8, 0x00#8, addressHigh k, addressLow k] ++ d.toList ++
        [checksum (addressHigh k) (addressLow k) d, 0x00#8, 0x00#8, 0x00#8])
      ([c.flag, 0x5A#8, 0x5D#8, 0x00#8, addressHigh k, addressLow k] ++ d.toList ++ [0x5C#8, 0x5D#8, 0x47#8])
      { c with stage := 0, cmd := .noCmd, addrHi := addressHigh k, addrLo := addressLow k, buf := d, fresh := false } m' := by
  have hcommit : Dialogue
      { c with stage := 134, cmd := .write, addrHi := addressHigh k, addrLo := addressLow k, buf := d } m
      [checksum (addressHigh k) (addressLow k) d] [d[127]]
      { c with stage := 135, cmd := .write, addrHi := addressHigh k, addrLo := addressLow k, buf := d, fresh := false } m' :=
    Dialogue.write_commit rfl rfl (by rw [Card.addr, sectorIndex_address hk, hm])
  have hend := Dialogue.write_end m' 0x00#8 0x00#8 0x00#8
    (c := { c with cmd := .write, addrHi := addressHigh k, addrLo := addressLow k, buf := d, fresh := false }) rfl
  have hechoes : addressLow k :: d.toList = (addressLow k :: d.toList).take 128 ++ [d[127]] := by
    rw [← List.take_of_length_le (l := addressLow k :: d.toList) (i := 129) (by simp),
      List.take_succ_eq_append_getElem (by simp)]
    simp
  have hresponses : [c.flag, 0x5A#8, 0x5D#8, 0x00#8, addressHigh k, addressLow k] ++ d.toList =
      [c.flag, 0x5A#8, 0x5D#8, 0x00#8, addressHigh k] ++ (addressLow k :: d.toList) := rfl
  rw [hresponses, hechoes]
  simpa only [List.append_assoc, List.cons_append, List.nil_append] using
    (Dialogue.write_to_checksum m d hk hs).trans (hcommit.trans hend)

/-! The read sequence (R176 to R183). -/

/-- From stage 6 on a read answers its row and changes nothing. -/
theorem cardTurn_read {c : Card} {m : Memory} {b : Byte} (hr : c.cmd = .read) (h6 : 6 ≤ c.stage) :
    Machine.cardTurn c m b = .ok { row := cardReadRow c, card := c, store := m } := by
  simp [cardTurn_data h6, hr]

/-- The data stages: byte `n` of the buffer (R181). -/
theorem cardReadRow_data {c : Card} {n : Nat} (hn : n < 128) (hs : c.stage = 10 + n) :
    cardReadRow c = .accept c.buf[n] (10 + (n + 1)) := by
  rw [cardReadRow, if_neg (by omega), if_neg (by omega), if_neg (by omega), if_neg (by omega), if_pos (by omega),
    show c.stage - 10 = n by omega, show c.stage + 1 = 10 + (n + 1) by omega, Card.bufAt_eq c hn]

/-- A byte of a read that is not its last, whatever the byte is. -/
theorem Dialogue.read_byte {c : Card} {r : Byte} {n : Nat} (m : Memory) (b : Byte) (hr : c.cmd = .read)
    (h6 : 6 ≤ c.stage) (hn : n ≠ 0) (hrow : cardReadRow c = .accept r n) :
    Dialogue c m [b] [r] { c with stage := n } m :=
  Dialogue.accept (by omega) hn (by rw [cardTurn_read hr h6, hrow]) rfl

/-- The acknowledge bytes and the address, before the data (R177 to R180). -/
theorem Dialogue.read_begin {c : Card} (m : Memory) (w x y z : Byte) (hr : c.cmd = .read) :
    Dialogue { c with stage := 6 } m [w, x, y, z] [0x5C#8, 0x5D#8, c.addrHi, c.addrLo] { c with stage := 10 } m := by
  have h6 := Dialogue.read_byte (c := { c with stage := 6 }) m w hr (by simp) (by simp) rfl
  have h7 := Dialogue.read_byte (c := { c with stage := 7 }) m x hr (by simp) (by simp) rfl
  have h8 := Dialogue.read_byte (c := { c with stage := 8 }) m y hr (by simp) (by simp) rfl
  have h9 := Dialogue.read_byte (c := { c with stage := 9 }) m z hr (by simp) (by simp) rfl
  exact h6.trans (h7.trans (h8.trans h9))

/-- The first `n` data bytes of a read. -/
theorem Dialogue.read_data {c : Card} (m : Memory) (hr : c.cmd = .read) : ∀ n ≤ 128,
    Dialogue { c with stage := 10 } m (List.replicate n 0x00#8) (c.buf.toList.take n) { c with stage := 10 + n } m
  | 0, _ => Dialogue.nil _ m
  | n + 1, hn => by
    have hbyte := Dialogue.read_byte (c := { c with stage := 10 + n }) m 0x00#8 hr (by simp; omega) (by simp)
      (cardReadRow_data hn rfl)
    rw [List.replicate_succ', List.take_succ_eq_append_getElem (by simp; omega)]
    exact (Dialogue.read_data m hr n (by omega)).trans hbyte

/-- The checksum and the end byte (R182, R183). -/
theorem Dialogue.read_end {c : Card} (m : Memory) (x y : Byte) (hr : c.cmd = .read) :
    Dialogue { c with stage := 138 } m [x, y] [c.chk, 0x47#8] { c with stage := 0, cmd := .noCmd } m := by
  have h138 := Dialogue.read_byte (c := { c with stage := 138 }) m x hr (by simp) (by simp) rfl
  have h139 : Dialogue { c with stage := 139 } m [y] [0x47#8] { c with stage := 0, cmd := .noCmd } m :=
    Dialogue.finish (by simp) (cardTurn_read (by exact hr) (by simp)) rfl
  exact h138.trans h139

/-- A read from its first acknowledge byte to its end, the buffer being the sector it sends (R177 to R183). -/
theorem Dialogue.read_sequence {c : Card} (m : Memory) (hr : c.cmd = .read) :
    Dialogue { c with stage := 6 } m (List.replicate 134 0x00#8)
      ([0x5C#8, 0x5D#8, c.addrHi, c.addrLo] ++ c.buf.toList ++ [c.chk, 0x47#8]) { c with stage := 0, cmd := .noCmd } m := by
  have hdata := Dialogue.read_data m hr 128 (Nat.le_refl _)
  rw [List.take_of_length_le (by simp)] at hdata
  rw [List.append_assoc]
  exact (Dialogue.read_begin m _ _ _ _ hr).trans (hdata.trans (Dialogue.read_end m _ _ hr))

/-- A read from its command byte to its end: the sector is fetched at the range check and sent (R172 to R183). -/
theorem Dialogue.read_sector {c : Card} (m : Memory) {k : Nat} (hk : k < 1024) (hs : c.stage = 1) :
    Dialogue c m ([0x52#8, 0x00#8, 0x00#8, addressHigh k, addressLow k] ++ List.replicate 134 0x00#8)
      ([c.flag, 0x5A#8, 0x5D#8, 0x00#8, addressHigh k, 0x5C#8, 0x5D#8, addressHigh k, addressLow k] ++
        (m.sector k).toList ++ [checksum (addressHigh k) (addressLow k) (m.sector k), 0x47#8])
      { c with stage := 0, cmd := .noCmd, addrHi := addressHigh k, addrLo := addressLow k, buf := m.sector k } m := by
  have hheader : Dialogue c m [0x52#8, 0x00#8, 0x00#8, addressHigh k] [c.flag, 0x5A#8, 0x5D#8, 0x00#8]
      { c with stage := 5, cmd := .read, addrHi := addressHigh k } m :=
    Dialogue.header _ _ _ hs (by simp) rfl
  exact hheader.trans ((Dialogue.addressLow_read hk rfl rfl rfl).trans (Dialogue.read_sequence m
    (c := { c with cmd := .read, addrHi := addressHigh k, addrLo := addressLow k, buf := m.sector k }) rfl))

/-! A sector written and read back (R60, R192). -/

/-- A whole write transaction with the right checksum, with no transaction in flight before or after. -/
theorem State.writes_sector {s : State} {m : Memory} {d : Sector} {k : Nat} (ho : lineOpen s.ctrl = true)
    (hs : s.sel = .none) (hk : k < 1024) (hm : s.store.writeSector k d = some m) :
    ∃ t rs, s.sendBytes (writeTransaction k d (checksum (addressHigh k) (addressLow k) d)) = some (t, rs) ∧
      t.Holds ⟨0, .noCmd, addressHigh k, addressLow k, d, false⟩ m := by
  obtain ⟨t, hsend, ht⟩ := State.card_transaction ho hs (Dialogue.write_sector hk rfl hm)
  exact ⟨t, _, hsend, ht⟩

/-- A whole read transaction, with no transaction in flight before or after. -/
theorem State.reads_sector {s : State} {k : Nat} (ho : lineOpen s.ctrl = true) (hs : s.sel = .none) (hk : k < 1024) :
    ∃ t, s.sendBytes (readTransaction k) = some (t, readResponses s.card.flag k (s.store.sector k)) ∧
      t.Holds ⟨0, .noCmd, addressHigh k, addressLow k, s.store.sector k, s.card.fresh⟩ s.store :=
  State.card_transaction ho hs (Dialogue.read_sector s.store hk rfl)

/-- Settles O57: the write transaction leaves the store `writeSector` answers, the laws of the store say what its sectors
are, and the read transaction sends the sector it finds. -/
theorem cardWriteThenRead : Obligations.CardWriteThenRead := by
  intro s k d ho hs hwf hk
  have hm : s.store.writeSector k d = some (s.store.writeBytes (Memory.sectorAddress k 0) d.toList) :=
    Memory.writeSector_eq_some.2 ⟨hk, rfl⟩
  obtain ⟨t, rs, hwrite, ht⟩ := State.writes_sector ho hs hk hm
  obtain ⟨hto, htcard, htstore, htsel⟩ := ht
  obtain ⟨u, hread, hu⟩ := State.reads_sector hto htsel hk
  have hsector : t.store.sector k = d := htstore ▸ Memory.sector_writeSector_same hwf hm
  have hflag : t.card.flag = 0x00#8 := by rw [htcard]; rfl
  rw [hsector, hflag] at hread
  exact ⟨t, rs, u, hwrite, hsector, fun j hj => htstore ▸ Memory.sector_writeSector_other hwf hm hj, by rw [htcard], htsel,
    hread, hu.store_eq, hu.sel_eq⟩

end Sys2Proof.Machine

/-! ## The encoding (spec 30_encoding.md): stimulus words and serial bytes, and what the serial rows select -/

namespace Sys2Proof

/-! The decoder on what the encoder writes (R71, R72). -/

/-- A word is decoded by its fields. -/
theorem decode_makeWord {k o : BitVec 4} {d : Half} {i : Instr} (h : decodeFields k o d = some i) :
    decode (.word (makeWord k o d)) = .ok i :=
  decode_word_eq_ok.2 ((decodeWord_makeWord k o d).trans h)

/-- An event with a byte operand takes the byte of its data (R71). -/
theorem byteEvent_append (b : Byte) (f : Byte → Instr) : byteEvent (0#8 ++ b) f = some (f b) := by
  rw [byteEvent, if_pos (highByte_append _ _), lowByte_append]

/-- Settles O1: a serial row is decoded by its byte, and an event by its fields, whose data is nothing but the operand. -/
theorem decodeOfEncode : Obligations.DecodeOfEncode := by
  intro i
  cases i with
  | addrPad | addrCard | padPoll | padMode | cardRead | cardWrite => rfl
  | wrData | setinRx | setinRy | setinLx | setinLy | setinDx | setinDy => exact decode_makeWord (byteEvent_append _ _)
  | setinBtn btn0 btn1 =>
    have hbytes : decodeFields 0x4#4 0x0#4 (btn1 ++ btn0) =
        some (.setinBtn (lowByte (btn1 ++ btn0)) (highByte (btn1 ++ btn0))) := rfl
    rw [lowByte_append, highByte_append] at hbytes
    exact decode_makeWord hbytes
  | rdData | rdStat | rdMode | rdCtrl | rdBaud | wrStat | wrMode | wrCtrl | wrBaud | step | reset | configDigital
  | configAnalog | configMouse | configCard => exact decode_makeWord rfl

/-- Settles O2: the fields a word decodes from are those of its instruction's word. -/
theorem decodedWordIsItsEncoding : Obligations.DecodedWordIsItsEncoding := fun _ _ h => encode_of_decodeWord h

/-- The bits the encoder writes for an instruction decode to it. -/
theorem decodeTableWord_of_encode {n w : Nat} {i : Instr} (h : encode i = stimulusOfBits n w) :
    decodeTableWord n w = some i := by
  rw [decodeTableWord, ← h, decodeOfEncode i]

/-- The bits of a word that no row of the table covers decode to nothing. -/
theorem decodeTableWord_of_illFormed {w : Nat} (h : wordWellFormed (BitVec.ofNat 32 w) = false) :
    decodeTableWord 32 w = none := by
  obtain ⟨-, hword, -⟩ := decoderAcceptsExactlyTheTable
  rw [decodeTableWord, show stimulusOfBits 32 w = .word (BitVec.ofNat 32 w) from rfl, hword _ h]

/-- Settles O5: eleven words that the encoder writes for their instructions, and three that no row covers. -/
theorem tableWordsDecode : Obligations.TableWordsDecode :=
  ⟨decodeTableWord_of_encode rfl, decodeTableWord_of_encode rfl, decodeTableWord_of_encode rfl,
    decodeTableWord_of_encode rfl, decodeTableWord_of_encode rfl, decodeTableWord_of_encode rfl,
    decodeTableWord_of_encode rfl, decodeTableWord_of_encode rfl, decodeTableWord_of_encode rfl,
    decodeTableWord_of_encode rfl, decodeTableWord_of_encode rfl, decodeTableWord_of_illFormed rfl,
    decodeTableWord_of_illFormed rfl, decodeTableWord_of_illFormed rfl⟩

end Sys2Proof

namespace Sys2Proof.Machine

/-! A byte to the addressed device, from the row of its table. -/

/-- An instruction that carries a byte to the addressed pad leaves what the pad's row says; the mode is toggled at stage 9
of an analog pad only (R113, R161). -/
theorem State.exec_pad {s : State} {i : Instr} {b : Byte} {r : Row} (hi : serialByteOf i = some b)
    (ho : lineOpen s.ctrl = true) (hs : s.sel = .controller) (hr : padRow s.padKind s.pad s.input b = r) :
    exec i s = .next (s.padAnswered r.accepted r.resp r.next
      (if s.padKind = .analog ∧ s.pad.stage = 9 then !s.pad.analogMode else s.pad.analogMode)) := by
  subst hr
  rw [exec_of_serialByte hi, State.transmit_pad b ho hs, State.padTurn_finish hs _ _ (handlePad_eq _ _ _ _ b)]

/-- A byte to the addressed pad before its stage 9 leaves the mode. -/
theorem State.exec_pad_keeps_mode {s : State} {i : Instr} {b : Byte} {r : Row} (hi : serialByteOf i = some b)
    (ho : lineOpen s.ctrl = true) (hs : s.sel = .controller) (h9 : s.pad.stage ≠ 9)
    (hr : padRow s.padKind s.pad s.input b = r) :
    exec i s = .next (s.padAnswered r.accepted r.resp r.next s.pad.analogMode) := by
  rw [State.exec_pad hi ho hs hr, if_neg fun h => h9 h.2]

/-- An instruction that carries a byte to the addressed card with which its sequence goes on (R113). -/
theorem State.exec_card_accept {s : State} {i : Instr} {b r : Byte} {n : Nat} {c : Card} (hi : serialByteOf i = some b)
    (ho : lineOpen s.ctrl = true) (hs : s.sel = .memoryCard) (hn : n ≠ 0)
    (ht : Machine.cardTurn s.card s.store b = .ok { row := .accept r n, card := c, store := s.store }) :
    exec i s = .next (s.cardAnswered true r { c with stage := n }) := by
  rw [exec_of_serialByte hi, State.transmit_card ho hs ht, CardTurn.after, if_neg fun hend => hn hend.1]
  rfl

/-! The address rows (R112). -/

/-- Every pad accepts its address byte at stage 0 (R131, R141, R151). -/
theorem padRow_address (k : PadKind) {pad : Pad} (inp : Input) (h0 : pad.stage = 0) :
    padRow k pad inp addrPadByte = .accept Config.idle 1 := by
  cases k <;> simp [padRow, mouseRow, digitalRow, analogRow, h0]

/-- A run of one byte that is answered is that byte's DATA write. -/
theorem State.exec_of_sendBytes_singleton {s t : State} {b r : Byte} (h : s.sendBytes [b] = some (t, [r])) :
    exec (.wrData b) s = .next t ∧ t.rxData = r := by
  rw [State.sendBytes] at h
  split at h
  next u hu =>
    simp only [State.sendBytes, Option.some.injEq, Prod.mk.injEq, List.cons.injEq, and_true] at h
    obtain ⟨rfl, hr⟩ := h
    exact ⟨hu, hr⟩
  next => cases h

/-- The address byte of the pad starts a transaction, whatever stage the pad was at. -/
theorem State.select_pad {s : State} (ho : lineOpen s.ctrl = true) (hs : s.sel = .none) :
    ∃ t, exec .addrPad s = .next t ∧ t.sel = .controller ∧ t.pad = { s.pad with stage := 1 } ∧ t.rxData = 0xFF#8 := by
  have hphase := State.addressPhase_of_none s addrPadByte hs
  have hsel : (s.addressPhase addrPadByte).sel = .controller := by rw [hphase]; rfl
  have hpad : (s.addressPhase addrPadByte).pad = { s.pad with stage := 0 } := by rw [hphase]
  have hexec := State.exec_pad_keeps_mode (i := .addrPad) rfl (by simpa using ho) hsel (by simp [hpad])
    (padRow_address _ _ (by rw [hpad]))
  have hsame : exec .addrPad (s.addressPhase addrPadByte) = exec .addrPad s :=
    State.transmit_addressPhase _ ho (by simp [hsel])
  exact ⟨_, hsame.symm.trans hexec, rfl, by rw [hpad]; rfl, rfl⟩

/-- Settles O36: each row starts a transaction with its device at stage 1. -/
theorem addressRowsSelect : Obligations.AddressRowsSelect := by
  refine fun s ho hs => ⟨State.select_pad ho hs, ?_⟩
  obtain ⟨t, hsend, ht⟩ := State.select_card ho hs
  obtain ⟨hexec, hresp⟩ := State.exec_of_sendBytes_singleton hsend
  exact ⟨t, hexec, ht.sel_eq, ht.card_eq, hresp⟩

/-! The command rows (R132, R142, R152, R153, R172). -/

/-- The identifier a pad answers its command with (R73, R150). -/
def padIdentifier (k : PadKind) (analogMode : Bool) : Byte :=
  match k with
  | .mouse => idMouse
  | .digital => idDigital
  | .analog => analogId analogMode

/-- Every pad accepts the poll at stage 1. -/
theorem padRow_poll (k : PadKind) {pad : Pad} (inp : Input) (h1 : pad.stage = 1) :
    padRow k pad inp padPollByte = .accept (padIdentifier k pad.analogMode) 2 := by
  cases k <;> simp [padRow, mouseRow, digitalRow, analogRow, padIdentifier, h1]

/-- The analog pad accepts the mode switch at stage 1 (R153). -/
theorem padRow_mode_analog {k : PadKind} {pad : Pad} (inp : Input) (hk : k = .analog) (h1 : pad.stage = 1) :
    padRow k pad inp padModeByte = .accept (padIdentifier k pad.analogMode) 9 := by
  subst hk
  simp [padRow, analogRow, padIdentifier, h1, padModeByte, padPollByte]

/-- No other pad accepts it (R132, R142). -/
theorem padRow_mode_other {k : PadKind} {pad : Pad} (inp : Input) (hk : k ≠ .analog) (h1 : pad.stage = 1) :
    padRow k pad inp padModeByte = .reject (some .desync) := by
  cases k with
  | analog => exact absurd rfl hk
  | mouse | digital => simp [padRow, mouseRow, digitalRow, h1, padModeByte, padPollByte]

/-- The card's turn at stage 1 is its command phase (R172). -/
theorem cardTurn_command {c : Card} (m : Memory) (b : Byte) (h1 : c.stage = 1) :
    Machine.cardTurn c m b = .ok (cardCommand c m b) := by
  simp [Machine.cardTurn, h1]

/-- Settles O41: the rows of the two pad commands and the two card commands at stage 1. -/
theorem commandRowsSelect : Obligations.CommandRowsSelect := by
  refine fun s ho => ⟨fun hs h1 id hid => ?_, fun hs h1 flag hflag => ?_⟩
  · have h9 : s.pad.stage ≠ 9 := by omega
    obtain rfl : id = padIdentifier s.padKind s.pad.analogMode := hid
    exact ⟨State.exec_pad_keeps_mode rfl ho hs h9 (padRow_poll _ _ h1),
      fun hk => State.exec_pad_keeps_mode rfl ho hs h9 (padRow_mode_analog _ hk h1),
      fun hk => State.exec_pad_keeps_mode rfl ho hs h9 (padRow_mode_other _ hk h1)⟩
  · obtain rfl : flag = s.card.flag := hflag
    exact ⟨State.exec_card_accept rfl ho hs (by simp) (cardTurn_command s.store cardReadByte h1),
      State.exec_card_accept rfl ho hs (by simp) (cardTurn_command s.store cardWriteByte h1)⟩

end Sys2Proof.Machine

/-! ## The register accesses (spec 40_register_access.md): what each access decodes from, what it answers and what it writes -/

namespace Sys2Proof

/-! The accesses on the bus (R52, R53, R70). -/

/-- The bus access of each of the ten operations decodes to it; a write's number is put together from its bytes (R53). -/
theorem decode_of_encodeAccess {i : Instr} {a : BusAccess} (h : encodeAccess i = some a) :
    decode (.access a) = .ok i := by
  have hhalf (off : BitVec 4) (v : Half) : decodeAccess (.write off (halfBytes v)) = decodeWriteHalf off v :=
    congrArg (decodeWriteHalf off) (highByte_append_lowByte v)
  cases i with
  | rdData | rdStat | rdMode | rdCtrl | rdBaud | wrData => obtain rfl := Option.some.inj h; rfl
  | wrStat v | wrMode v | wrCtrl v | wrBaud v =>
    obtain rfl := Option.some.inj h
    exact decode_access_eq_ok.2 (hhalf _ v)
  | _ => cases h

end Sys2Proof

namespace Sys2Proof.Machine

/-! The bits of STAT and of the stored CTRL (R24, R26, R97). -/

/-- A flag shown at one bit of a register. -/
theorem getLsbD_flagAt (b : Bool) {k : Nat} (hk : k < 16) (n : Nat) :
    (if b then BitVec.twoPow 16 k else 0#16).getLsbD n = (decide (n = k) && b) := by
  cases b <;> simp [BitVec.getLsbD_twoPow, hk, eq_comm]

/-- STAT bit by bit: two constant ones and the three flags (R24). -/
theorem State.stat_getLsbD (s : State) (n : Nat) :
    s.stat.getLsbD n =
      (decide (n = 0) || decide (n = 2) || (decide (n = 1) && s.rxPending) || (decide (n = 7) && s.ack)
        || (decide (n = 9) && s.irq)) := by
  have hones : (0x0005#16).getLsbD n = (decide (n = 0) || decide (n = 2)) := by
    rw [show 0x0005#16 = BitVec.twoPow 16 0 ||| BitVec.twoPow 16 2 from rfl]
    simp [BitVec.getLsbD_twoPow, eq_comm]
  have hrxPending := getLsbD_flagAt s.rxPending (k := 1) (by decide) n
  have hack := getLsbD_flagAt s.ack (k := 7) (by decide) n
  have hirq := getLsbD_flagAt s.irq (k := 9) (by decide) n
  rw [← hones, ← hrxPending, ← hack, ← hirq, ← BitVec.getLsbD_or, ← BitVec.getLsbD_or, ← BitVec.getLsbD_or]
  rfl

/-- A write of CTRL stores every bit but bit 4 (R97 step 1). -/
theorem ctrlStored_getLsbD (v : Half) (n : Nat) : (ctrlStored v).getLsbD n = (v.getLsbD n && decide (n ≠ 4)) := by
  rw [ctrlStored, show 0xFFEF#16 = ~~~BitVec.twoPow 16 4 from rfl]
  by_cases hn : n < 16
  · simp [hn]
  · simp [BitVec.getLsbD_of_ge v n (by omega)]

/-! Who writes the registers (R101). -/

/-- Settles O18: the frame of an exchange leaves all three registers, and of the other events each register has its own
write and reset. -/
theorem registersWrittenOnlyByTheirWrites : Obligations.RegistersWrittenOnlyByTheirWrites := by
  intro i s t h
  cases exec_effect h with
  | latchRead | registerRead | statWrite | inputWrite | padConfig | cardConfig | byteDropped =>
    exact ⟨absurd rfl, absurd rfl, absurd rfl⟩
  | modeWrite v => exact ⟨fun _ => .inr ⟨v, rfl⟩, absurd rfl, absurd rfl⟩
  | ctrlWrite v => exact ⟨absurd rfl, fun _ => .inr ⟨v, rfl⟩, absurd rfl⟩
  | baudWrite v => exact ⟨absurd rfl, absurd rfl, fun _ => .inr ⟨v, rfl⟩⟩
  | engineReset => exact ⟨fun _ => .inl rfl, fun _ => .inl rfl, fun _ => .inl rfl⟩
  | clock => exact ⟨absurd (s.advance_mode _), absurd (s.advance_ctrl _), absurd (s.advance_baud _)⟩
  | byteExchanged b u _ _ hu =>
    obtain ⟨-, -, -, -, hmode, hctrl, hbaud, -⟩ := State.exchange_frame hu
    obtain ⟨-, -, -, hmode', hctrl', hbaud', -⟩ := u.finish_frame
    exact ⟨absurd (hmode'.trans hmode), absurd (hctrl'.trans hctrl), absurd (hbaud'.trans hbaud)⟩

/-! The latch between an `RD DATA` and the next exchange (R90, R100). -/

/-- The latch as `RD DATA` leaves it: the idle byte, and nothing to read. -/
def State.LatchEmpty (s : State) : Prop := s.rxData = Config.idle ∧ s.rxPending = false

/-- An instruction that answers leaves an empty latch empty, unless it exchanges a byte. -/
theorem Effect.keeps_latchEmpty {i : Instr} {s t : State} (h : Effect i s t)
    (hquiet : ((serialByteOf i).isSome && ctrlTxen s.ctrl) = false) (hs : s.LatchEmpty) : t.LatchEmpty := by
  cases h with
  | registerRead | statWrite | modeWrite | ctrlWrite | baudWrite | inputWrite | padConfig | cardConfig
  | byteDropped => exact hs
  | latchRead | engineReset => exact ⟨rfl, rfl⟩
  | clock =>
    obtain ⟨hdata, hpending⟩ := hs
    exact ⟨(s.advance_rxData _).trans hdata, (s.advance_rxPending _).trans hpending⟩
  | byteExchanged b _ hi hx => simp [hi, hx] at hquiet

/-- A quiet run of at least one instruction: the first exchanges nothing and answers, and the run goes on from there. -/
theorem State.runQuiet_cons {s u : State} {i : Instr} {is : List Instr} (h : s.runQuiet (i :: is) = some u) :
    ((serialByteOf i).isSome && ctrlTxen s.ctrl) = false ∧ ∃ t, exec i s = .next t ∧ t.runQuiet is = some u := by
  rw [State.runQuiet] at h
  split at h
  next => cases h
  next hquiet =>
    split at h
    next t hexec => exact ⟨Bool.eq_false_iff.2 hquiet, t, hexec, h⟩
    next => cases h

/-- A run in which no byte is exchanged leaves an empty latch empty. -/
theorem State.LatchEmpty.runQuiet {u : State} {is : List Instr} :
    ∀ {s : State}, s.LatchEmpty → s.runQuiet is = some u → u.LatchEmpty := by
  induction is with
  | nil =>
    intro s hs h
    obtain rfl := Option.some.inj h
    exact hs
  | cons i is ih =>
    intro s hs h
    obtain ⟨hquiet, t, hexec, hrest⟩ := State.runQuiet_cons h
    exact ih ((exec_effect hexec).keeps_latchEmpty hquiet hs) hrest

/-- STAT shows that there is nothing to read (R24). -/
theorem State.LatchEmpty.stat_bit {s : State} (h : s.LatchEmpty) : s.stat.getLsbD 1 = false := by
  obtain ⟨-, hpending⟩ := h
  exact (s.stat_getLsbD 1).trans (by simp [hpending])

/-- `RD DATA` finds the idle byte, and empties nothing (R90). -/
theorem State.LatchEmpty.exec_rdData {s : State} (h : s.LatchEmpty) :
    exec .rdData s = .next { s with reply := .byte 0xFF#8 } := by
  obtain ⟨hdata, hpending⟩ := h
  cases s
  cases hdata
  cases hpending
  rfl

/-- Settles O26: `RD DATA` empties the latch, a run without exchange keeps it empty, and a further read finds it so. -/
theorem latchStaysEmptyUntilExchange : Obligations.LatchStaysEmptyUntilExchange := by
  intro s t u is hread hrun
  obtain rfl := Host.Outcome.next.inj hread
  have hempty : u.LatchEmpty := State.LatchEmpty.runQuiet ⟨rfl, rfl⟩ hrun
  exact ⟨hempty.stat_bit, hempty.exec_rdData⟩

/-! The reads (R90 to R98). -/

/-- Settles O25: the two forms of `RD DATA`, and its record. -/
theorem readDataConsumes : Obligations.ReadDataConsumes :=
  ⟨decodeOfEncode .rdData, decode_of_encodeAccess rfl, fun _ => rfl⟩

/-- Settles O27: `RD STAT` answers STAT, whose bits are the flags. -/
theorem readStatShowsFlags : Obligations.ReadStatShowsFlags :=
  ⟨decodeOfEncode .rdStat, decode_of_encodeAccess rfl, fun s => ⟨s.stat, rfl, s.stat_getLsbD⟩⟩

/-- Settles O28: each read answers its register, and the invariant holds bit 4 of CTRL at 0. -/
theorem readStoredRegisters : Obligations.ReadStoredRegisters :=
  ⟨decodeOfEncode .rdMode, decode_of_encodeAccess rfl, decodeOfEncode .rdCtrl, decode_of_encodeAccess rfl,
    decodeOfEncode .rdBaud, decode_of_encodeAccess rfl, fun _ => ⟨rfl, rfl, fun hs => hs.ctrl_irqack_zero, rfl⟩⟩

/-! The writes (R91 to R99). -/

/-- Settles O29: the two forms of `WR STAT`, and that it answers the state it found. -/
theorem writeStatDoesNothing : Obligations.WriteStatDoesNothing :=
  fun v => ⟨decodeOfEncode (.wrStat v), decode_of_encodeAccess rfl, fun _ => rfl⟩

/-- Settles O30: the two forms of each write, and its record. -/
theorem writeModeAndBaudStore : Obligations.WriteModeAndBaudStore :=
  fun v => ⟨decodeOfEncode (.wrMode v), decodeOfEncode (.wrBaud v), decode_of_encodeAccess rfl,
    decode_of_encodeAccess rfl, fun _ => ⟨rfl, rfl⟩⟩

/-- Settles O31: the three steps of a CTRL write in one record, and the bits of what it stores. -/
theorem writeCtrlStoresAcksDeselects : Obligations.WriteCtrlStoresAcksDeselects :=
  fun v => ⟨decodeOfEncode (.wrCtrl v), decode_of_encodeAccess rfl,
    fun s => ⟨ctrlStored v, execWrCtrl_eq v s, ctrlStored_getLsbD v⟩⟩

/-- With TXEN 0 a DATA write does nothing (R91). -/
theorem State.transmit_of_disabled {s : State} (b : Byte) (hx : ctrlTxen s.ctrl = false) : s.transmit b = .next s := by
  simp [State.transmit, hx]

/-- Settles O32: an instruction that carries a byte is the DATA write of it, which TXEN 0 drops. -/
theorem disabledTransferIsDropped : Obligations.DisabledTransferIsDropped :=
  fun _ b s hi hx => (exec_of_serialByte hi s).trans (s.transmit_of_disabled b hx)

end Sys2Proof.Machine

/-! ## The byte exchange (spec 41_byte_exchange.md): its course, the acknowledge and the countdown, the front-end's events -/

namespace Sys2Proof.Machine

/-! Steps 1 to 3 of an exchange, case by case (R111 to R113). -/

/-- A closed gate keeps every device off the line (R111). -/
theorem State.exchange_of_gateClosed {s : State} (b : Byte) (hg : gateClosed s.ctrl = true) :
    s.exchange b = .ok s.noDevice := by
  simp [State.exchange, hg]

/-- Past the gate the byte goes to the device that the address phase leaves addressed. -/
theorem State.exchange_of_gateOpen {s : State} (b : Byte) (hg : gateClosed s.ctrl = false) :
    s.exchange b = (s.addressPhase b).deviceTurn b := by
  simp [State.exchange, hg]

/-- A turn that a pad's row makes: its stage, its mode, the response, the acknowledge (R113). -/
def State.padStepped (s : State) (r : Row) (mode : Bool) : Turn :=
  { st := { s with pad := { stage := r.next, analogMode := mode } }
    resp := r.resp
    acked := r.acked s.par.ackPolicy (padDevice s.padKind) s.pad.stage
    cond := r.condition }

/-- A turn that the card's makes (R113). -/
def State.cardStepped (s : State) (t : CardTurn) : Turn :=
  { st := { s with card := t.after s.card.stage, store := t.store }
    resp := t.row.resp
    acked := t.row.acked s.par.ackPolicy .card s.card.stage
    cond := t.row.condition }

theorem State.padTurn_eq (s : State) (b : Byte) :
    s.padTurn b = s.padStepped (padRow s.padKind s.pad s.input b)
      (if s.padKind = .analog ∧ s.pad.stage = 9 then !s.pad.analogMode else s.pad.analogMode) := by
  simp only [State.padTurn, State.padStepped, handlePad_eq]

theorem State.cardTurn_eq {s : State} {b : Byte} {t : CardTurn} (ht : Machine.cardTurn s.card s.store b = .ok t) :
    s.cardTurn b = .ok (s.cardStepped t) := by
  simp only [State.cardTurn, State.cardStepped, handleCard, cardCondition, ht]

/-- The address phase that resolves `d`: both devices at stage 0, the card without a command (R112). -/
def State.addressing (s : State) (d : Selection) : State :=
  { s with pad := { s.pad with stage := 0 }, card := { s.card with stage := 0, cmd := .noCmd }, sel := d }

@[simp] theorem State.addressing_sel (s : State) (d : Selection) : (s.addressing d).sel = d := rfl

theorem State.addressPhase_eq_addressing {s : State} (b : Byte) (hs : s.sel = .none) :
    s.addressPhase b = s.addressing (resolve b) := State.addressPhase_of_none s b hs

/-- The course of steps 1 to 3: one case for each way an exchange meets a device, or none. -/
inductive State.Course (s : State) (b : Byte) : Turn → Prop where
  /-- The gate is closed (R111). -/
  | gated (hg : gateClosed s.ctrl = true) : Course s b s.noDevice
  /-- The byte addresses no device (R112). -/
  | unanswered (hg : gateClosed s.ctrl = false) (hs : s.sel = .none) (hpad : b ≠ addrPadByte) (hcard : b ≠ addrCardByte) :
      Course s b (s.addressing .none).noDevice
  /-- The byte addresses the pad (R112, R131, R141, R151). -/
  | padSelected (hg : gateClosed s.ctrl = false) (hs : s.sel = .none) (hb : b = addrPadByte) :
      Course s b ((s.addressing .controller).padStepped (.accept Config.idle 1) s.pad.analogMode)
  /-- The byte addresses the card (R112, R171). -/
  | cardSelected (hg : gateClosed s.ctrl = false) (hs : s.sel = .none) (hb : b = addrCardByte) :
      Course s b ((s.addressing .memoryCard).cardStepped
        { row := .accept Config.idle 1, card := s.card.idle, store := s.store })
  /-- The addressed pad takes the byte (R113). -/
  | padAddressed (hg : gateClosed s.ctrl = false) (hs : s.sel = .controller) :
      Course s b (s.padStepped (padRow s.padKind s.pad s.input b)
        (if s.padKind = .analog ∧ s.pad.stage = 9 then !s.pad.analogMode else s.pad.analogMode))
  /-- The addressed card takes the byte (R113). -/
  | cardAddressed (t : CardTurn) (hg : gateClosed s.ctrl = false) (hs : s.sel = .memoryCard)
      (ht : Machine.cardTurn s.card s.store b = .ok t) : Course s b (s.cardStepped t)

/-- An exchange takes each of its courses. -/
theorem State.Course.exchange {s : State} {b : Byte} {u : Turn} (h : s.Course b u) : s.exchange b = .ok u := by
  cases h with
  | gated hg => exact State.exchange_of_gateClosed b hg
  | unanswered hg hs hpad hcard =>
    rw [State.exchange_of_gateOpen b hg, State.addressPhase_eq_addressing b hs, resolve, if_neg hpad, if_neg hcard]
    rfl
  | padSelected hg hs hb =>
    subst hb
    rw [State.exchange_of_gateOpen _ hg, State.addressPhase_eq_addressing _ hs]
    have hturn := (s.addressing .controller).padTurn_eq addrPadByte
    rw [padRow_address _ _ rfl, if_neg (by simp [State.addressing])] at hturn
    exact congrArg Except.ok hturn
  | cardSelected hg hs hb =>
    subst hb
    rw [State.exchange_of_gateOpen _ hg, State.addressPhase_eq_addressing _ hs]
    exact State.cardTurn_eq (s := s.addressing .memoryCard) rfl
  | padAddressed hg hs =>
    rw [State.exchange_of_gateOpen b hg, State.addressPhase_of_some s b (by simp [hs]), State.deviceTurn, hs]
    exact congrArg Except.ok (s.padTurn_eq b)
  | cardAddressed t hg hs ht =>
    rw [State.exchange_of_gateOpen b hg, State.addressPhase_of_some s b (by simp [hs]), State.deviceTurn, hs]
    exact State.cardTurn_eq ht

/-- An exchange that answers takes one of its courses. -/
theorem State.exchange_course {s : State} {b : Byte} {u : Turn} (h : s.exchange b = .ok u) : s.Course b u := by
  suffices hcourse : ∃ v, s.Course b v by
    obtain ⟨v, hv⟩ := hcourse
    obtain rfl := Except.ok.inj (hv.exchange.symm.trans h)
    exact hv
  cases hg : gateClosed s.ctrl with
  | true => exact ⟨_, .gated hg⟩
  | false =>
    cases hs : s.sel with
    | none =>
      by_cases hpad : b = addrPadByte
      · exact ⟨_, .padSelected hg hs hpad⟩
      · by_cases hcard : b = addrCardByte
        · exact ⟨_, .cardSelected hg hs hcard⟩
        · exact ⟨_, .unanswered hg hs hpad hcard⟩
    | controller => exact ⟨_, .padAddressed hg hs⟩
    | memoryCard =>
      rw [State.exchange_of_gateOpen b hg, State.addressPhase_of_some s b (by simp [hs]), State.deviceTurn, hs] at h
      obtain ⟨t, ht, -⟩ := State.cardTurn_ok h
      exact ⟨_, .cardAddressed t hg hs ht⟩

/-- A DATA write with TXEN 1 answers the finished turn of its course. -/
theorem State.Course.transmit {s : State} {b : Byte} {u : Turn} (h : s.Course b u) (hx : ctrlTxen s.ctrl = true) :
    s.transmit b = .next (u.st.endTest.answered u.resp u.acked) := by
  simp [State.transmit, State.handleByte, hx, h.exchange, Turn.finish_eq]

/-- An instruction that carries a byte and answers with TXEN 1 has taken a course of the exchange. -/
theorem exec_course {i : Instr} {b : Byte} {s t : State} (hi : serialByteOf i = some b) (hx : ctrlTxen s.ctrl = true)
    (h : exec i s = .next t) : ∃ u, s.Course b u ∧ t = u.finish := by
  rw [exec_of_serialByte hi] at h
  obtain ⟨hoff, -⟩ | ⟨-, u, hu, ht⟩ := State.transmit_next h
  · simp [hoff] at hx
  · exact ⟨u, State.exchange_course hu, ht⟩

/-! What the last steps leave (R114 to R116). -/

@[simp] theorem Turn.finish_rxData (u : Turn) : u.finish.rxData = u.resp := by simp [Turn.finish]

@[simp] theorem Turn.finish_rxPending (u : Turn) : u.finish.rxPending = true := by simp [Turn.finish]

@[simp] theorem Turn.finish_sel (u : Turn) : u.finish.sel = u.st.endTest.sel := by simp [Turn.finish]

/-- With no device addressed the end test has nothing to do (R116). -/
theorem State.endTest_of_none {s : State} (hs : s.sel = .none) : s.endTest = s := by
  simp only [State.endTest, hs]

theorem State.noDevice_finish_sel (s : State) : s.noDevice.finish.sel = .none := by
  rw [Turn.finish_sel, State.endTest_of_none rfl]
  rfl

/-- The addressed pad's row ends the transaction exactly when it goes to stage 0 (R116). -/
theorem State.padStepped_finish_sel {s : State} (hs : s.sel = .controller) (r : Row) (m : Bool) :
    (s.padStepped r m).finish.sel = if r.next = 0 then .none else .controller := by
  simp [State.endTest_sel, State.padStepped, hs]

/-- The addressed card's row ends the transaction exactly when it goes to stage 0 (R116). -/
theorem State.cardStepped_finish_sel {s : State} (hs : s.sel = .memoryCard) (t : CardTurn) :
    (s.cardStepped t).finish.sel = if t.row.next = 0 then .none else .memoryCard := by
  simp [State.endTest_sel, State.cardStepped, CardTurn.after_stage, hs]

/-! Whole exchanges with no device, and the address phase (R111, R112). -/

/-- The gate as the bits of CTRL. -/
theorem gateClosed_iff (c : Half) : gateClosed c = true ↔ c.getLsbD 1 = false ∨ c.getLsbD 13 = true := by
  simp [gateClosed, ctrlSelect, ctrlSlot]

/-- Settles O34: the closed gate's course, in which the end test finds no device and nothing is armed. -/
theorem closedGateAnswersIdle : Obligations.ClosedGateAnswersIdle := by
  intro i b s hi hx hgate
  have hcourse : s.Course b s.noDevice := .gated ((gateClosed_iff s.ctrl).2 hgate)
  rw [exec_of_serialByte hi, hcourse.transmit hx, State.endTest_of_none rfl]
  rfl

/-- Settles O35: the three courses of a byte on an open line that finds no transaction in flight. -/
theorem addressPhaseResolvesDevice : Obligations.AddressPhaseResolvesDevice := by
  intro i b s hi ho hs
  obtain ⟨hx, hg⟩ := lineOpen_eq ho
  rw [exec_of_serialByte hi]
  refine ⟨fun hb => ?_, fun hb => ?_, fun hpad hcard => ?_⟩
  · rw [(State.Course.padSelected hg hs hb).transmit hx]
    rfl
  · rw [(State.Course.cardSelected hg hs hb).transmit hx]
    rfl
  · rw [(State.Course.unanswered hg hs hpad hcard).transmit hx, State.endTest_of_none rfl]
    rfl

/-! Completion, isolation, and the ends of a transaction (R121, R122, R127). -/

/-- Settles O13: the premise is all an exchange needs to answer, and no other instruction needs any. -/
theorem everyInstructionCompletes : Obligations.EveryInstructionCompletes :=
  fun i _ h => exec_answers i h

/-- Settles O22: in each course at most one device does more than return to stage 0. -/
theorem devicesAreIsolated : Obligations.DevicesAreIsolated := by
  intro i b s t hi h
  rw [exec_of_serialByte hi] at h
  obtain ⟨-, rfl⟩ | ⟨-, u, hu, rfl⟩ := State.transmit_next h
  · exact ⟨.inl (.inl rfl), fun _ => rfl, fun _ => ⟨rfl, rfl⟩, fun _ => ⟨rfl, rfl, rfl, rfl, rfl, rfl⟩⟩
  · obtain ⟨-, -, -, -, -, -, -, -, -, hstore, hpad, hcard⟩ := u.finish_frame
    rw [hstore, hpad, hcard]
    cases State.exchange_course hu with
    | gated => exact ⟨.inl (.inl rfl), fun _ => rfl, fun _ => ⟨rfl, rfl⟩, fun _ => ⟨rfl, rfl, rfl, rfl, rfl, rfl⟩⟩
    | unanswered _ hs | cardSelected _ hs =>
      exact ⟨.inl (.inr rfl), by simp [hs], by simp [hs], fun _ => ⟨rfl, rfl, rfl, rfl, rfl, rfl⟩⟩
    | padSelected _ hs =>
      exact ⟨.inr ⟨rfl, .inr rfl⟩, by simp [hs], by simp [hs], fun _ => ⟨rfl, rfl, rfl, rfl, rfl, rfl⟩⟩
    | padAddressed _ hs => exact ⟨.inr ⟨rfl, .inl rfl⟩, by simp [hs], fun _ => ⟨rfl, rfl⟩, by simp [hs]⟩
    | cardAddressed _ _ hs => exact ⟨.inl (.inl rfl), fun _ => rfl, by simp [hs], by simp [hs]⟩

/-- What an exchange does to the selection: it stays, or a device is selected by its address, or the transaction ends
(R122). -/
theorem State.Course.finish_sel {s : State} {b : Byte} {u : Turn} (h : s.Course b u) :
    u.finish.sel = s.sel ∨
    (gateClosed s.ctrl = false ∧ s.sel = .none ∧
      ((b = addrPadByte ∧ u.finish.sel = .controller) ∨ (b = addrCardByte ∧ u.finish.sel = .memoryCard))) ∨
    (u.finish.sel = .none ∧
      (gateClosed s.ctrl = true ∨ (s.sel = .controller ∧ u.finish.pad.stage = 0) ∨
        (s.sel = .memoryCard ∧ u.finish.card.stage = 0))) := by
  obtain ⟨-, -, -, -, -, -, -, -, -, -, hpad, hcard⟩ := u.finish_frame
  rw [hpad, hcard]
  cases h with
  | gated hg => exact .inr (.inr ⟨s.noDevice_finish_sel, .inl hg⟩)
  | unanswered _ hs => exact .inl ((s.addressing .none).noDevice_finish_sel.trans hs.symm)
  | padSelected hg hs hb => exact .inr (.inl ⟨hg, hs, .inl ⟨hb, State.padStepped_finish_sel (s.addressing_sel _) _ _⟩⟩)
  | cardSelected hg hs hb => exact .inr (.inl ⟨hg, hs, .inr ⟨hb, State.cardStepped_finish_sel (s.addressing_sel _) _⟩⟩)
  | padAddressed hg hs =>
    rw [State.padStepped_finish_sel hs]
    split
    · rename_i hend
      exact .inr (.inr ⟨rfl, .inr (.inl ⟨hs, hend⟩)⟩)
    · exact .inl hs.symm
  | cardAddressed t hg hs =>
    rw [State.cardStepped_finish_sel hs]
    split
    · rename_i hend
      exact .inr (.inr ⟨rfl, .inr (.inr ⟨hs, (t.after_stage s.card.stage).trans hend⟩)⟩)
    · exact .inl hs.symm

/-- What an instruction does to the selection. -/
theorem Effect.sel_cases {i : Instr} {s t : State} (h : Effect i s t) :
    t.sel = s.sel ∨
    (∃ b, serialByteOf i = some b ∧ lineOpen s.ctrl = true ∧ s.sel = .none ∧
      ((b = addrPadByte ∧ t.sel = .controller) ∨ (b = addrCardByte ∧ t.sel = .memoryCard))) ∨
    (t.sel = .none ∧
      ((∃ b, serialByteOf i = some b ∧ ctrlTxen s.ctrl = true ∧
        (gateClosed s.ctrl = true ∨ (s.sel = .controller ∧ t.pad.stage = 0) ∨
          (s.sel = .memoryCard ∧ t.card.stage = 0))) ∨
      (∃ v : Half, i = .wrCtrl v ∧ v.getLsbD 1 = false) ∨ i = .reset ∨
      (s.sel = .controller ∧ (i = .configDigital ∨ i = .configAnalog ∨ i = .configMouse)) ∨
      (s.sel = .memoryCard ∧ i = .configCard))) := by
  cases h with
  | latchRead | registerRead | statWrite | modeWrite | baudWrite | inputWrite | byteDropped => exact .inl rfl
  | clock => exact .inl (s.advance_sel _)
  | ctrlWrite v =>
    cases hv : ctrlSelect v with
    | true => exact .inl rfl
    | false => exact .inr (.inr ⟨rfl, .inr (.inl ⟨v, rfl, hv⟩)⟩)
  | engineReset => exact .inr (.inr ⟨rfl, .inr (.inr (.inl rfl))⟩)
  | padConfig k hi =>
    by_cases hs : s.sel = .controller
    · exact .inr (.inr ⟨if_pos hs, .inr (.inr (.inr (.inl ⟨hs, hi⟩)))⟩)
    · exact .inl (if_neg hs)
  | cardConfig =>
    by_cases hs : s.sel = .memoryCard
    · exact .inr (.inr ⟨if_pos hs, .inr (.inr (.inr (.inr ⟨hs, rfl⟩)))⟩)
    · exact .inl (if_neg hs)
  | byteExchanged b u hi hx hu =>
    obtain hsame | ⟨hg, hs, hbegin⟩ | ⟨hnone, hend⟩ := (State.exchange_course hu).finish_sel
    · exact .inl hsame
    · exact .inr (.inl ⟨b, hi, by simp [lineOpen, hx, hg], hs, hbegin⟩)
    · exact .inr (.inr ⟨hnone, .inl ⟨b, hi, hx, hend⟩⟩)

/-- Settles O37: an instruction that changes the selection begins a transaction where none was in flight, or ends one. -/
theorem transactionBoundaries : Obligations.TransactionBoundaries := by
  intro i s t h
  simp only [← gateClosed_iff]
  obtain hsame | ⟨b, hi, ho, hs, hbegin⟩ | ⟨hnone, hend⟩ := (exec_effect h).sel_cases
  · exact ⟨fun hs ht => absurd (hsame.trans hs) ht, fun hs ht => absurd (hsame.symm.trans ht) hs, fun _ _ => hsame⟩
  · exact ⟨fun _ _ => ⟨b, hi, ho, hbegin⟩, absurd hs, absurd hs⟩
  · exact ⟨fun _ => absurd hnone, fun _ _ => hend, fun _ => absurd hnone⟩

/-! The acknowledge (R115, R118, R119, R126). -/

/-- The default policy acknowledges a row exactly when its sequence goes on: a rejected byte ends it. -/
theorem Row.acked_default (r : Row) (k : DeviceKind) (n : Nat) : r.acked .default k n = (r.next != 0) := by
  cases r with
  | accept => rfl
  | reject => rfl

theorem State.padStepped_acked_iff {s : State} (hs : s.sel = .controller) (hp : s.par.ackPolicy = .default) (r : Row)
    (m : Bool) : (s.padStepped r m).acked = true ↔ (s.padStepped r m).finish.sel ≠ .none := by
  rw [State.padStepped_finish_sel hs]
  simp [State.padStepped, hp, Row.acked_default]

theorem State.cardStepped_acked_iff {s : State} (hs : s.sel = .memoryCard) (hp : s.par.ackPolicy = .default)
    (t : CardTurn) : (s.cardStepped t).acked = true ↔ (s.cardStepped t).finish.sel ≠ .none := by
  rw [State.cardStepped_finish_sel hs]
  simp [State.cardStepped, hp, Row.acked_default]

/-- Under the default policy a course acknowledges exactly when it leaves a transaction in flight. -/
theorem State.Course.acked_iff {s : State} {b : Byte} {u : Turn} (h : s.Course b u)
    (hp : s.par.ackPolicy = .default) : u.acked = true ↔ u.finish.sel ≠ .none := by
  cases h with
  | gated | unanswered =>
    rw [State.noDevice_finish_sel]
    exact ⟨nofun, absurd rfl⟩
  | padSelected => exact State.padStepped_acked_iff (s.addressing_sel _) hp _ _
  | cardSelected => exact State.cardStepped_acked_iff (s.addressing_sel _) hp _
  | padAddressed _ hs => exact State.padStepped_acked_iff hs hp _ _
  | cardAddressed t _ hs => exact State.cardStepped_acked_iff hs hp t

/-- Settles O23: every exchange latches its response, and the default policy acknowledges when a transaction goes on. -/
theorem ackMeansSequenceGoesOn : Obligations.AckMeansSequenceGoesOn := by
  intro i b s t hi hx h
  obtain ⟨u, hcourse, rfl⟩ := exec_course hi hx h
  refine ⟨u.finish_rxPending, fun hp => ?_⟩
  rw [Turn.finish_ack]
  exact hcourse.acked_iff hp

/-- Settles O49: the frame of steps 1 to 3 leaves the countdown to step 6, which loads it or leaves it. -/
theorem acknowledgedExchangeArms : Obligations.AcknowledgedExchangeArms := by
  intro i b s t hi hx h
  obtain ⟨u, hcourse, rfl⟩ := exec_course hi hx h
  obtain ⟨hpar, -, hirq, htimer, -, hctrl, -⟩ := State.exchange_frame hcourse.exchange
  obtain ⟨-, -, hirq', -⟩ := u.finish_frame
  refine ⟨hirq'.trans hirq, ?_⟩
  rw [Turn.finish_irqTimer, Turn.finish_ack, hpar, hctrl, htimer]
  simp only [Bool.and_eq_true]
  rfl

/-! The clock (R117, R120). -/

/-- One clock step in one record. -/
theorem State.tick_eq (s : State) :
    s.tick = { s with irqTimer := s.irqTimer - 1, irq := if s.irqTimer = 1 then true else s.irq } := by
  unfold State.tick
  split
  · rename_i hpos
    simp only [show s.irqTimer - 1 = 0 ↔ s.irqTimer = 1 by omega]
  · rename_i hzero
    have hzero : s.irqTimer = 0 := by omega
    cases s
    simp_all

/-- Many clock steps in one record. -/
theorem State.advance_eq (s : State) (n : Nat) :
    s.advance n =
      { s with irqTimer := s.irqTimer - n, irq := if 0 < s.irqTimer ∧ s.irqTimer ≤ n then true else s.irq } := by
  unfold State.advance
  split
  · rename_i hzero
    cases s
    simp_all
  · split
    · rename_i hlt
      rw [if_neg (by omega)]
    · rename_i hpos hle
      rw [if_pos (by omega), Nat.sub_eq_zero_of_le (by omega)]

theorem State.advance_zero (s : State) : s.advance 0 = s := by
  simp only [State.advance_eq, Nat.sub_zero, if_neg (show ¬ (0 < s.irqTimer ∧ s.irqTimer ≤ 0) by omega)]

theorem State.advance_succ (s : State) (n : Nat) : s.advance (n + 1) = (s.advance n).tick := by
  rw [State.tick_eq, State.advance_eq, State.advance_eq]
  simp only [State.mk.injEq, true_and, and_true]
  refine ⟨by omega, ?_⟩
  rw [← ite_or]
  exact if_congr (by omega) rfl rfl

theorem State.advance_eq_repeat (s : State) (n : Nat) : s.advance n = Nat.repeat State.tick n s := by
  induction n with
  | zero => exact s.advance_zero
  | succ n ih => rw [State.advance_succ, ih, Nat.repeat]

/-- Settles O48: the advance at once is the repeated clock step. -/
theorem stepCountsDown : Obligations.StepCountsDown := by
  refine fun n => ⟨decodeOfEncode (.step n), fun s => ?_⟩
  rw [← funext State.tick_eq, ← State.advance_eq_repeat]
  rfl

/-- The countdown and `irq` of `t` are those of `s` after `n` clock steps (R117). -/
structure State.Counted (s : State) (n : Nat) (t : State) : Prop where
  irqTimer_eq : t.irqTimer = s.irqTimer - n
  irq_iff : t.irq = true ↔ s.irq = true ∨ (0 < s.irqTimer ∧ s.irqTimer ≤ n)

theorem State.Counted.of_same {s t : State} (htimer : t.irqTimer = s.irqTimer) (hirq : t.irq = s.irq) :
    s.Counted 0 t :=
  ⟨htimer, by rw [hirq, or_iff_left (by omega)]⟩

theorem State.Counted.advance (s : State) (n : Nat) : s.Counted n (s.advance n) :=
  ⟨s.advance_irqTimer n, by simp [State.advance_irq]⟩

/-- Clock steps in two parts. -/
theorem State.Counted.trans {s t u : State} {n m : Nat} (h : s.Counted n t) (h' : t.Counted m u) :
    s.Counted (n + m) u := by
  refine ⟨by rw [h'.irqTimer_eq, h.irqTimer_eq]; omega, ?_⟩
  rw [h'.irq_iff, h.irq_iff, h.irqTimer_eq, or_assoc]
  exact or_congr_right (by omega)

/-- No DATA write is among the counted instructions. -/
theorem countdownSteps_of_serialByte {i : Instr} {b : Byte} (h : serialByteOf i = some b) : countdownSteps i = none := by
  cases i with
  | wrData | addrPad | addrCard | padPoll | padMode | cardRead | cardWrite => rfl
  | _ => cases h

/-- A counted instruction lets the countdown take its clock steps and leaves it alone otherwise. -/
theorem Effect.counted {i : Instr} {s t : State} {n : Nat} (h : Effect i s t) (hn : countdownSteps i = some n) :
    s.Counted n t := by
  cases h with
  | latchRead | statWrite | modeWrite | baudWrite | cardConfig =>
    obtain rfl := Option.some.inj hn
    exact .of_same rfl rfl
  | registerRead r hi =>
    obtain rfl | rfl | rfl | rfl := hi <;> obtain rfl := Option.some.inj hn <;> exact .of_same rfl rfl
  | inputWrite inp hi =>
    obtain ⟨_, _, rfl⟩ | ⟨_, rfl | rfl | rfl | rfl | rfl | rfl⟩ := hi <;> obtain rfl := Option.some.inj hn <;>
      exact .of_same rfl rfl
  | padConfig k hi =>
    obtain rfl | rfl | rfl := hi <;> obtain rfl := Option.some.inj hn <;> exact .of_same rfl rfl
  | ctrlWrite v =>
    rw [countdownSteps] at hn
    split at hn
    · cases hn
    · rename_i hack
      obtain rfl := Option.some.inj hn
      exact .of_same rfl (if_neg hack)
  | clock m =>
    obtain rfl := Option.some.inj hn
    exact .advance s _
  | engineReset => cases hn
  | byteDropped b hi | byteExchanged b _ hi => simp [countdownSteps_of_serialByte hi] at hn

/-- A counted run of at least one instruction: the first is counted and answers, and the run goes on from there. -/
theorem State.runCounting_cons {s u : State} {i : Instr} {is : List Instr} {n : Nat}
    (h : s.runCounting (i :: is) = some (u, n)) :
    ∃ k t m, countdownSteps i = some k ∧ exec i s = .next t ∧ t.runCounting is = some (u, m) ∧ n = k + m := by
  rw [State.runCounting] at h
  split at h
  next k t hk hexec =>
    split at h
    next v m hrest =>
      simp only [Option.some.injEq, Prod.mk.injEq] at h
      obtain ⟨rfl, rfl⟩ := h
      exact ⟨k, t, m, hk, hexec, hrest, rfl⟩
    next => cases h
  next => cases h

/-- A counted run lets the countdown take the clock steps that are in it. -/
theorem State.runCounting_counted {u : State} {is : List Instr} :
    ∀ {s : State} {n : Nat}, s.runCounting is = some (u, n) → s.Counted n u := by
  induction is with
  | nil =>
    intro s n h
    simp only [State.runCounting, Option.some.injEq, Prod.mk.injEq] at h
    obtain ⟨rfl, rfl⟩ := h
    exact .of_same rfl rfl
  | cons i is ih =>
    intro s n h
    obtain ⟨k, t, m, hk, hexec, hrest, rfl⟩ := State.runCounting_cons h
    exact ((exec_effect hexec).counted hk).trans (ih hrest)

/-- Settles O50: the exchange loads the countdown and leaves `irq` false, and the run takes its clock steps from there. -/
theorem irqRisesAfterDelay : Obligations.IrqRisesAfterDelay := by
  intro i b s t u is n hi hx hie hirq h hack hrun
  obtain ⟨hirq', htimer⟩ := acknowledgedExchangeArms i b s t hi hx h
  rw [if_pos ⟨hack, hie⟩] at htimer
  rw [(State.runCounting_counted hrun).irq_iff, hirq', hirq, htimer]
  simp

/-! The front-end (R123 to R125). -/

/-- A word of a byte event, written as its upper 24 bits and the byte, decodes to the event it encodes (R71). -/
theorem decode_byteWord {k o : BitVec 4} {v : Byte} {i : Instr} (h : encode i = .word (makeWord k o (0#8 ++ v))) :
    decode (.word ((k ++ o ++ 0#16 : BitVec 24) ++ v)) = .ok i := by
  rw [append_byte, ← h]
  exact decodeOfEncode i

/-- Settles O52: the seven words are the encodings, and each event writes its field. -/
theorem setinWritesItsField : Obligations.SetinWritesItsField := by
  intro v w
  have hbtn : (0x4000#16 ++ w ++ v : Word) = makeWord 0x4#4 0x0#4 (w ++ v) := BitVec.append_assoc
  refine ⟨?_, decode_byteWord (k := 0x4#4) (o := 0x1#4) rfl, decode_byteWord (k := 0x4#4) (o := 0x2#4) rfl,
    decode_byteWord (k := 0x4#4) (o := 0x3#4) rfl, decode_byteWord (k := 0x4#4) (o := 0x4#4) rfl,
    decode_byteWord (k := 0x4#4) (o := 0x5#4) rfl, decode_byteWord (k := 0x4#4) (o := 0x6#4) rfl,
    fun s => ⟨rfl, rfl, rfl, rfl, rfl, rfl, rfl⟩⟩
  rw [hbtn]
  exact decodeOfEncode (.setinBtn v w)

/-- Settles O53: the four words are the encodings, and each event puts in its fresh device. -/
theorem configReplacesDevice : Obligations.ConfigReplacesDevice := by
  refine ⟨decodeOfEncode .configDigital, decodeOfEncode .configAnalog, decodeOfEncode .configMouse,
    decodeOfEncode .configCard, fun s => ⟨?_, rfl⟩⟩
  rintro i k (⟨rfl, rfl⟩ | ⟨rfl, rfl⟩ | ⟨rfl, rfl⟩) <;> rfl

/-! The acknowledge policy makes no other difference (R119, R139). -/

/-- A state with another acknowledge policy. -/
def State.repoliced (s : State) (p : AckPolicy) : State := { s with par := { s.par with ackPolicy := p } }

/-- A turn of a state with another acknowledge policy: only `acked` can differ. -/
def Turn.repoliced (u : Turn) (p : AckPolicy) (acked : Bool) : Turn := { u with st := u.st.repoliced p, acked := acked }

/-- Under another policy an exchange takes the same course, but for the acknowledge. -/
theorem State.Course.repoliced {s : State} {b : Byte} {u : Turn} (h : s.Course b u) (p : AckPolicy) :
    ∃ acked, (s.repoliced p).Course b (u.repoliced p acked) := by
  cases h with
  | gated hg => exact ⟨_, .gated hg⟩
  | unanswered hg hs hpad hcard => exact ⟨_, .unanswered hg hs hpad hcard⟩
  | padSelected hg hs hb => exact ⟨_, .padSelected hg hs hb⟩
  | cardSelected hg hs hb => exact ⟨_, .cardSelected hg hs hb⟩
  | padAddressed hg hs => exact ⟨_, .padAddressed hg hs⟩
  | cardAddressed t hg hs ht => exact ⟨_, .cardAddressed t hg hs ht⟩

/-- `t'` shows the bus master and the devices what `t` shows them, all but the acknowledge and its interrupt. -/
def State.SameResponse (t' t : State) : Prop :=
  t'.rxData = t.rxData ∧ t'.rxPending = t.rxPending ∧ t'.reply = t.reply ∧ t'.sel = t.sel ∧ t'.pad = t.pad ∧
    t'.card = t.card ∧ t'.store = t.store

theorem State.sameResponse_repoliced (s : State) (p : AckPolicy) : (s.repoliced p).SameResponse s :=
  ⟨rfl, rfl, rfl, rfl, rfl, rfl, rfl⟩

theorem State.sameResponse_advance {s' s : State} (h : s'.SameResponse s) (n : Nat) :
    (s'.advance n).SameResponse (s.advance n) := by
  simpa [State.SameResponse] using h

theorem Turn.sameResponse_finish_repoliced (u : Turn) (p : AckPolicy) (acked : Bool) :
    (u.repoliced p acked).finish.SameResponse u.finish := by
  simp [State.SameResponse, Turn.finish, Turn.repoliced, State.repoliced, State.endTest_sel]

/-- A DATA write under another policy. -/
theorem State.transmit_repoliced {s t : State} {b : Byte} (p : AckPolicy) (h : s.transmit b = .next t) :
    ∃ t', (s.repoliced p).transmit b = .next t' ∧ t'.SameResponse t := by
  obtain ⟨hx, rfl⟩ | ⟨hx, u, hu, rfl⟩ := State.transmit_next h
  · exact ⟨_, State.transmit_of_disabled b hx, t.sameResponse_repoliced p⟩
  · obtain ⟨acked, hcourse⟩ := (State.exchange_course hu).repoliced p
    exact ⟨_, (hcourse.transmit hx).trans (congrArg _ (Turn.finish_eq _).symm), u.sameResponse_finish_repoliced p acked⟩

/-- Settles O60: an exchange takes the same course under another policy, and no other instruction reads the policy. -/
theorem responsesIgnoreAckPolicy : Obligations.ResponsesIgnoreAckPolicy := by
  intro i s t p h
  cases hi : serialByteOf i with
  | some b =>
    rw [exec_of_serialByte hi] at h ⊢
    exact State.transmit_repoliced p h
  | none =>
    cases i with
    | wrData | addrPad | addrCard | padPoll | padMode | cardRead | cardWrite => cases hi
    | wrCtrl v =>
      obtain rfl := Host.Outcome.next.inj ((execWrCtrl_eq v s).symm.trans h)
      exact ⟨_, execWrCtrl_eq v _, rfl, rfl, rfl, rfl, rfl, rfl, rfl⟩
    | step n =>
      obtain rfl := Host.Outcome.next.inj h
      exact ⟨_, rfl, State.sameResponse_advance (s.sameResponse_repoliced p) n.toNat⟩
    | _ =>
      obtain rfl := Host.Outcome.next.inj h
      exact ⟨_, rfl, rfl, rfl, rfl, rfl, rfl, rfl, rfl⟩

end Sys2Proof.Machine

/-! ## The mouse (spec 42_device_mouse.md): its table, and conversations with a pad -/

namespace Sys2Proof.Machine

/-! The rows of the mouse's table (R131 to R138). -/

section

variable {b : Byte} (inp : Input)

theorem mouseRow_address (hb : b = 0x01#8) : mouseRow 0 inp b = .accept 0xFF#8 1 := if_pos hb

theorem mouseRow_address_mismatch (hb : b ≠ 0x01#8) : mouseRow 0 inp b = .reject (some .desync) := if_neg hb

theorem mouseRow_poll (hb : b = 0x42#8) : mouseRow 1 inp b = .accept 0x12#8 2 := if_pos hb

theorem mouseRow_poll_mismatch (hb : b ≠ 0x42#8) : mouseRow 1 inp b = .reject (some .desync) := if_neg hb

theorem mouseRow_idHi (b : Byte) : mouseRow 2 inp b = .accept 0x5A#8 3 := rfl

theorem mouseRow_btn0 (b : Byte) : mouseRow 3 inp b = .accept (~~~ inp.btn0) 4 := rfl

theorem mouseRow_btn1 (b : Byte) : mouseRow 4 inp b = .accept (~~~ inp.btn1) 5 := rfl

theorem mouseRow_dx (b : Byte) : mouseRow 5 inp b = .accept inp.dx 6 := rfl

theorem mouseRow_dy (b : Byte) : mouseRow 6 inp b = .accept inp.dy 0 := rfl

theorem mouseRow_invalid (b : Byte) : ∀ {n : Nat}, 6 < n → mouseRow n inp b = .reject none
  | _ + 7, _ => rfl

end

/-- An instruction that carries a byte to the addressed mouse leaves what the row of its stage says; no stage toggles the
mode (R130). -/
theorem State.exec_mouse {s : State} {i : Instr} {b : Byte} {n : Nat} {r : Row} (hi : serialByteOf i = some b)
    (ho : lineOpen s.ctrl = true) (hs : s.sel = .controller) (hk : s.padKind = .mouse) (hn : s.pad.stage = n)
    (hr : mouseRow n s.input b = r) :
    exec i s = .next (s.padAnswered r.accepted r.resp r.next s.pad.analogMode) := by
  have hrow : padRow s.padKind s.pad s.input b = r := by rw [hk, padRow, hn, hr]
  rw [State.exec_pad hi ho hs hrow, if_neg (by simp [hk])]

/-- Settles O38: each clause is one row of the table. -/
theorem mouseTable : Obligations.MouseTable := by
  intro i b s hi ho hs hk
  exact ⟨fun hn hb => State.exec_mouse hi ho hs hk hn (mouseRow_address _ hb),
    fun hn hb => State.exec_mouse hi ho hs hk hn (mouseRow_address_mismatch _ hb),
    fun hn hb => State.exec_mouse hi ho hs hk hn (mouseRow_poll _ hb),
    fun hn hb => State.exec_mouse hi ho hs hk hn (mouseRow_poll_mismatch _ hb),
    fun hn => State.exec_mouse hi ho hs hk hn (mouseRow_idHi _ b),
    fun hn => State.exec_mouse hi ho hs hk hn (mouseRow_btn0 _ b),
    fun hn => State.exec_mouse hi ho hs hk hn (mouseRow_btn1 _ b),
    fun hn => State.exec_mouse hi ho hs hk hn (mouseRow_dx _ b),
    fun hn => State.exec_mouse hi ho hs hk hn (mouseRow_dy _ b),
    fun hn => State.exec_mouse hi ho hs hk rfl (mouseRow_invalid _ b hn)⟩

/-! A conversation with the pad: what a run of bytes makes of it, whatever else the state holds. -/

/-- The state as far as a pad transaction sees it: an open line, the pad's kind, its inputs, the pad, and the pad addressed
until its sequence ends at stage 0 (R42 (f), R116). -/
structure State.HoldsPad (s : State) (k : PadKind) (inp : Input) (pad : Pad) : Prop where
  line_open : lineOpen s.ctrl = true
  padKind_eq : s.padKind = k
  input_eq : s.input = inp
  pad_eq : s.pad = pad
  sel_eq : s.sel = if pad.stage = 0 then .none else .controller

/-- The pad after an exchange that takes it to stage `n`; the mode is toggled at stage 9 of an analog pad only (R161). -/
def padAfter (k : PadKind) (pad : Pad) (n : Nat) : Pad :=
  { stage := n, analogMode := if k = .analog ∧ pad.stage = 9 then !pad.analogMode else pad.analogMode }

/-- From every state with the pad `pad` of kind `k` and the inputs `inp`, the bytes `bs` are answered with `rs` and leave
the pad `pad'`. -/
def PadDialogue (k : PadKind) (inp : Input) (pad : Pad) (bs rs : List Byte) (pad' : Pad) : Prop :=
  ∀ s : State, s.HoldsPad k inp pad → ∃ t, s.sendBytes bs = some (t, rs) ∧ t.HoldsPad k inp pad'

section

variable {k : PadKind} {inp : Input} {pad pad' : Pad} {b r : Byte} {bs rs : List Byte} {n : Nat}

theorem PadDialogue.nil : PadDialogue k inp pad [] [] pad := fun s h => ⟨s, rfl, h⟩

/-- What a DATA write leaves on an open line to the addressed pad that accepts its byte (R113). -/
theorem State.HoldsPad.exec {s : State} (h : s.HoldsPad k inp pad) (h0 : pad.stage ≠ 0)
    (hr : padRow k pad inp b = .accept r n) :
    ∃ t, exec (.wrData b) s = .next t ∧ t.rxData = r ∧ t.HoldsPad k inp (padAfter k pad n) := by
  obtain ⟨ho, rfl, rfl, rfl, hsel⟩ := h
  rw [if_neg h0] at hsel
  exact ⟨_, State.exec_pad rfl ho hsel hr, rfl, ho, rfl, rfl, rfl, rfl⟩

/-- One byte that the addressed pad accepts, and the conversation that follows. -/
theorem PadDialogue.accept (h0 : pad.stage ≠ 0) (hr : padRow k pad inp b = .accept r n)
    (hrest : PadDialogue k inp (padAfter k pad n) bs rs pad') : PadDialogue k inp pad (b :: bs) (r :: rs) pad' := by
  intro s hs
  obtain ⟨t, hexec, rfl, ht⟩ := hs.exec h0 hr
  obtain ⟨u, hsend, hu⟩ := hrest t ht
  exact ⟨u, State.sendBytes_append (State.sendBytes_singleton hexec) hsend, hu⟩

end

/-- The address byte of the pad starts a transaction at stage 1, with the pad's mode as it was (R112, R131, R141, R151). -/
theorem State.address_pad {s : State} (ho : lineOpen s.ctrl = true) (hs : s.sel = .none) :
    ∃ t, s.sendBytes [0x01#8] = some (t, [0xFF#8]) ∧ t.HoldsPad s.padKind s.input { s.pad with stage := 1 } := by
  obtain ⟨htxen, hgate⟩ := lineOpen_eq ho
  have hexec := (State.Course.padSelected hgate hs rfl).transmit htxen
  exact ⟨_, State.sendBytes_singleton hexec, ho, rfl, rfl, rfl, rfl⟩

/-- A whole transaction with the pad: its address byte, then a conversation from stage 1. -/
theorem State.pad_transaction {s : State} {bs rs : List Byte} {pad : Pad} (ho : lineOpen s.ctrl = true)
    (hs : s.sel = .none) (h : PadDialogue s.padKind s.input { s.pad with stage := 1 } bs rs pad) :
    ∃ t, s.sendBytes (0x01#8 :: bs) = some (t, 0xFF#8 :: rs) ∧ t.HoldsPad s.padKind s.input pad := by
  obtain ⟨t, hsend, ht⟩ := State.address_pad ho hs
  obtain ⟨u, hsend', hu⟩ := h t ht
  exact ⟨u, State.sendBytes_append hsend hsend', hu⟩

/-- The poll of a mouse from its command byte on (R132 to R137). -/
theorem PadDialogue.mouse_poll (inp : Input) (mode : Bool) (x2 x3 x4 x5 x6 : Byte) :
    PadDialogue .mouse inp { stage := 1, analogMode := mode } [0x42#8, x2, x3, x4, x5, x6]
      [0x12#8, 0x5A#8, ~~~ inp.btn0, ~~~ inp.btn1, inp.dx, inp.dy] { stage := 0, analogMode := mode } :=
  .accept (Nat.succ_ne_zero _) (mouseRow_poll inp rfl) <|
  .accept (Nat.succ_ne_zero _) (mouseRow_idHi inp x2) <|
  .accept (Nat.succ_ne_zero _) (mouseRow_btn0 inp x3) <|
  .accept (Nat.succ_ne_zero _) (mouseRow_btn1 inp x4) <|
  .accept (Nat.succ_ne_zero _) (mouseRow_dx inp x5) <|
  .accept (Nat.succ_ne_zero _) (mouseRow_dy inp x6) .nil

/-- Settles O54: the address byte, then the poll. -/
theorem mousePollSequence : Obligations.MousePollSequence := by
  intro s x2 x3 x4 x5 x6 ho hs hk
  have hpoll := PadDialogue.mouse_poll s.input s.pad.analogMode x2 x3 x4 x5 x6
  obtain ⟨t, hsend, ht⟩ := State.pad_transaction ho hs (hk ▸ hpoll)
  exact ⟨t, hsend, by rw [ht.pad_eq], ht.sel_eq⟩

end Sys2Proof.Machine

/-! ## The digital and the analog pad (spec 43_device_pads.md): their tables, the polls and the mode switch -/

namespace Sys2Proof.Machine

/-! The rows of the pads' tables by their stage. A row that every pad has alike is said once, for every kind. -/

section

variable {k : PadKind} {pad : Pad} {b : Byte} (inp : Input)

theorem padRow_address_mismatch (k : PadKind) (h0 : pad.stage = 0) (hb : b ≠ addrPadByte) :
    padRow k pad inp b = .reject (some .desync) := by
  cases k <;> simp [padRow, mouseRow, digitalRow, analogRow, h0, hb]

/-- A command byte that is neither the poll nor the analog pad's mode switch (R142, R153). -/
theorem padRow_command_mismatch (h1 : pad.stage = 1) (hpoll : b ≠ padPollByte) (hmode : k = .analog → b ≠ padModeByte) :
    padRow k pad inp b = .reject (some .desync) := by
  cases k with
  | mouse | digital => simp [padRow, mouseRow, digitalRow, h1, hpoll]
  | analog => simp [padRow, analogRow, h1, hpoll, hmode rfl]

theorem padRow_idHi (k : PadKind) (b : Byte) (h2 : pad.stage = 2) : padRow k pad inp b = .accept 0x5A#8 3 := by
  cases k <;> simp [padRow, mouseRow, digitalRow, analogRow, idHi, h2]

theorem padRow_btn0 (k : PadKind) (b : Byte) (h3 : pad.stage = 3) : padRow k pad inp b = .accept (~~~ inp.btn0) 4 := by
  cases k <;> simp [padRow, mouseRow, digitalRow, analogRow, buttonWire, h3]

/-- A pad that polls as a digital pad: a digital pad, or an analog pad in digital-compatible mode (R145, R156). -/
def PollsDigital (k : PadKind) (analogMode : Bool) : Prop := k = .digital ∨ k = .analog ∧ analogMode = false

theorem PollsDigital.padIdentifier_eq {mode : Bool} (h : PollsDigital k mode) : padIdentifier k mode = 0x41#8 := by
  obtain rfl | ⟨rfl, rfl⟩ := h <;> rfl

/-- It answers the poll with `ID_DIGITAL` (R142, R152). -/
theorem padRow_poll_digital (hk : PollsDigital k pad.analogMode) (h1 : pad.stage = 1) :
    padRow k pad inp padPollByte = .accept 0x41#8 2 := by
  rw [padRow_poll k inp h1, hk.padIdentifier_eq]

/-- Its second button byte ends the poll. -/
theorem padRow_btn1_end (b : Byte) (hk : PollsDigital k pad.analogMode) (h4 : pad.stage = 4) :
    padRow k pad inp b = .accept (~~~ inp.btn1) 0 := by
  obtain rfl | ⟨rfl, hmode⟩ := hk
  · simp [padRow, digitalRow, buttonWire, h4]
  · simp [padRow, analogRow, buttonWire, h4, hmode]

/-- In analog mode the axes follow the second button byte (R156). -/
theorem padRow_btn1_axes (b : Byte) (hk : k = .analog) (hmode : pad.analogMode = true) (h4 : pad.stage = 4) :
    padRow k pad inp b = .accept (~~~ inp.btn1) 5 := by
  subst hk
  simp [padRow, analogRow, buttonWire, h4, hmode]

theorem padRow_rx (b : Byte) (hk : k = .analog) (h5 : pad.stage = 5) : padRow k pad inp b = .accept inp.rx 6 := by
  simp [hk, padRow, analogRow, h5]

theorem padRow_ry (b : Byte) (hk : k = .analog) (h6 : pad.stage = 6) : padRow k pad inp b = .accept inp.ry 7 := by
  simp [hk, padRow, analogRow, h6]

theorem padRow_lx (b : Byte) (hk : k = .analog) (h7 : pad.stage = 7) : padRow k pad inp b = .accept inp.lx 8 := by
  simp [hk, padRow, analogRow, h7]

theorem padRow_ly (b : Byte) (hk : k = .analog) (h8 : pad.stage = 8) : padRow k pad inp b = .accept inp.ly 0 := by
  simp [hk, padRow, analogRow, h8]

theorem padRow_toggle (b : Byte) (hk : k = .analog) (h9 : pad.stage = 9) : padRow k pad inp b = .accept 0x5A#8 0 := by
  simp [hk, padRow, analogRow, idHi, h9]

/-- A stage above the last of the pad's sequences is invalid (R138, R146, R162). -/
theorem padRow_invalid (b : Byte) (h : padTopStage k < pad.stage) : padRow k pad inp b = .reject none := by
  obtain ⟨n, mode⟩ := pad
  cases k with
  | digital =>
    have h4 : 4 < n := h
    match n, h4 with
    | _ + 5, _ => rfl
  | analog =>
    have h9 : 9 < n := h
    match n, h9 with
    | _ + 10, _ => rfl
  | mouse => exact mouseRow_invalid inp b h

end

/-! The tables (R140, R150). -/

/-- A byte to an addressed pad that is no analog pad leaves the mode. -/
theorem State.exec_pad_of_ne_analog {s : State} {i : Instr} {b : Byte} {r : Row} (hi : serialByteOf i = some b)
    (ho : lineOpen s.ctrl = true) (hs : s.sel = .controller) (hk : s.padKind ≠ .analog)
    (hr : padRow s.padKind s.pad s.input b = r) :
    exec i s = .next (s.padAnswered r.accepted r.resp r.next s.pad.analogMode) := by
  rw [State.exec_pad hi ho hs hr, if_neg fun h => hk h.1]

/-- The end of the mode-switch sequence toggles the mode (R161). -/
theorem State.exec_pad_toggle {s : State} {i : Instr} {b : Byte} (hi : serialByteOf i = some b)
    (ho : lineOpen s.ctrl = true) (hs : s.sel = .controller) (hk : s.padKind = .analog) (h9 : s.pad.stage = 9) :
    exec i s = .next (s.padAnswered true 0x5A#8 0 (!s.pad.analogMode)) := by
  rw [State.exec_pad hi ho hs (padRow_toggle _ b hk h9), if_pos ⟨hk, h9⟩]
  rfl

/-- Settles O39: each clause is one row of the table. -/
theorem digitalTable : Obligations.DigitalTable := by
  intro i b s hi ho hs hk
  have hne : s.padKind ≠ .analog := by simp [hk]
  have hdig : PollsDigital s.padKind s.pad.analogMode := .inl hk
  have run {r : Row} := State.exec_pad_of_ne_analog (r := r) hi ho hs hne
  exact ⟨fun h0 hb => by subst hb; exact run (padRow_address _ _ h0),
    fun h0 hb => run (padRow_address_mismatch _ _ h0 hb),
    fun h1 hb => by subst hb; exact run (padRow_poll_digital _ hdig h1),
    fun h1 hb => run (padRow_command_mismatch _ h1 hb fun h => absurd h hne),
    fun h2 => run (padRow_idHi _ _ b h2),
    fun h3 => run (padRow_btn0 _ _ b h3),
    fun h4 => run (padRow_btn1_end _ b hdig h4),
    fun h => run (padRow_invalid _ b (by rwa [hk]))⟩

/-- Settles O40: each clause but stage 9's is one row of the table that leaves the mode. -/
theorem analogTable : Obligations.AnalogTable := by
  intro i b s id hi ho hs hk hid
  obtain rfl : id = padIdentifier s.padKind s.pad.analogMode := by rw [hid, hk]; rfl
  have run {r : Row} (h9 : s.pad.stage ≠ 9) := State.exec_pad_keeps_mode (r := r) hi ho hs h9
  exact ⟨fun h0 hb => by subst hb; exact run (by omega) (padRow_address _ _ h0),
    fun h0 hb => run (by omega) (padRow_address_mismatch _ _ h0 hb),
    fun h1 hb => by subst hb; exact run (by omega) (padRow_poll _ _ h1),
    fun h1 hb => by subst hb; exact run (by omega) (padRow_mode_analog _ hk h1),
    fun h1 hpoll hmode => run (by omega) (padRow_command_mismatch _ h1 hpoll fun _ => hmode),
    fun h2 => run (by omega) (padRow_idHi _ _ b h2),
    fun h3 => run (by omega) (padRow_btn0 _ _ b h3),
    fun h4 hmode => run (by omega) (padRow_btn1_end _ b (.inr ⟨hk, hmode⟩) h4),
    fun h4 hmode => run (by omega) (padRow_btn1_axes _ b hk hmode h4),
    fun h5 => run (by omega) (padRow_rx _ b hk h5),
    fun h6 => run (by omega) (padRow_ry _ b hk h6),
    fun h7 => run (by omega) (padRow_lx _ b hk h7),
    fun h8 => run (by omega) (padRow_ly _ b hk h8),
    fun h9 => State.exec_pad_toggle hi ho hs hk h9,
    fun h => run (by omega) (padRow_invalid _ b (by rwa [hk]))⟩

/-! Conversations with the pads (R147, R163). -/

section

variable {k : PadKind} {inp : Input} {pad pad' pad'' : Pad} {bs bs' rs rs' : List Byte} {mode : Bool}

theorem PadDialogue.append (h : PadDialogue k inp pad bs rs pad') (h' : PadDialogue k inp pad' bs' rs' pad'') :
    PadDialogue k inp pad (bs ++ bs') (rs ++ rs') pad'' := by
  intro s hs
  obtain ⟨t, hsend, ht⟩ := h s hs
  obtain ⟨u, hsend', hu⟩ := h' t ht
  exact ⟨u, State.sendBytes_append hsend hsend', hu⟩

/-- Before stage 9 an exchange changes the pad's stage only (R161). -/
theorem padAfter_of_stage_ne (k : PadKind) (n : Nat) (h9 : pad.stage ≠ 9) : padAfter k pad n = { pad with stage := n } := by
  rw [padAfter, if_neg fun h => h9 h.2]

/-- One accepted byte between stage 0 and stage 9, and the conversation that follows in the same mode. -/
theorem PadDialogue.accept_keeping {b r : Byte} {m n : Nat} (hm : m ≠ 0 ∧ m ≠ 9)
    (hr : padRow k { stage := m, analogMode := mode } inp b = .accept r n)
    (hrest : PadDialogue k inp { stage := n, analogMode := mode } bs rs pad') :
    PadDialogue k inp { stage := m, analogMode := mode } (b :: bs) (r :: rs) pad' :=
  .accept hm.1 hr (by rwa [padAfter_of_stage_ne k n hm.2])

/-- Every poll begins alike: the identifier, `ID_HI` and the first button byte. -/
theorem PadDialogue.poll_begin (k : PadKind) (inp : Input) (mode : Bool) (x2 x3 : Byte) :
    PadDialogue k inp { stage := 1, analogMode := mode } [0x42#8, x2, x3]
      [padIdentifier k mode, 0x5A#8, ~~~ inp.btn0] { stage := 4, analogMode := mode } :=
  .accept_keeping (by decide) (padRow_poll k inp rfl) <|
  .accept_keeping (by decide) (padRow_idHi inp k x2 rfl) <|
  .accept_keeping (by decide) (padRow_btn0 inp k x3 rfl) .nil

/-- The digital poll from its command byte on (R142 to R145, R152 to R156). -/
theorem PadDialogue.digital_poll (inp : Input) (x2 x3 x4 : Byte) (hk : PollsDigital k mode) :
    PadDialogue k inp { stage := 1, analogMode := mode } [0x42#8, x2, x3, x4]
      [0x41#8, 0x5A#8, ~~~ inp.btn0, ~~~ inp.btn1] { stage := 0, analogMode := mode } :=
  hk.padIdentifier_eq ▸ (poll_begin k inp mode x2 x3).append
    (.accept_keeping (by decide) (padRow_btn1_end inp x4 hk rfl) .nil)

/-- The analog poll from its command byte on: the axes follow the buttons (R152 to R160). -/
theorem PadDialogue.analog_poll (inp : Input) (x2 x3 x4 x5 x6 x7 x8 : Byte) :
    PadDialogue .analog inp { stage := 1, analogMode := true } [0x42#8, x2, x3, x4, x5, x6, x7, x8]
      [0x73#8, 0x5A#8, ~~~ inp.btn0, ~~~ inp.btn1, inp.rx, inp.ry, inp.lx, inp.ly] { stage := 0, analogMode := true } :=
  (poll_begin .analog inp true x2 x3).append <|
  .accept_keeping (by decide) (padRow_btn1_axes inp x4 rfl rfl rfl) <|
  .accept_keeping (by decide) (padRow_rx inp x5 rfl rfl) <|
  .accept_keeping (by decide) (padRow_ry inp x6 rfl rfl) <|
  .accept_keeping (by decide) (padRow_lx inp x7 rfl rfl) <|
  .accept_keeping (by decide) (padRow_ly inp x8 rfl rfl) .nil

/-- The mode switch from its command byte on: its last byte toggles the mode (R153, R161). -/
theorem PadDialogue.mode_switch (inp : Input) (mode : Bool) (x : Byte) :
    PadDialogue .analog inp { stage := 1, analogMode := mode } [0x44#8, x] [analogId mode, 0x5A#8]
      { stage := 0, analogMode := !mode } :=
  .accept_keeping (by decide) (padRow_mode_analog inp rfl rfl) <|
  .accept (Nat.succ_ne_zero _) (padRow_toggle inp x rfl rfl) .nil

end

/-- Settles O55: the address byte, then the poll of the pad in its mode. -/
theorem padPollSequences : Obligations.PadPollSequences := by
  intro s x2 x3 x4 x5 x6 x7 x8 ho hs
  refine ⟨fun hk => ?_, fun ⟨hk, hmode⟩ => ?_⟩
  · obtain ⟨t, hsend, ht⟩ := State.pad_transaction ho hs (.digital_poll s.input x2 x3 x4 hk)
    exact ⟨t, hsend, ht.pad_eq, ht.sel_eq⟩
  · have hpoll := PadDialogue.analog_poll s.input x2 x3 x4 x5 x6 x7 x8
    rw [← hk, ← hmode] at hpoll
    obtain ⟨t, hsend, ht⟩ := State.pad_transaction ho hs hpoll
    exact ⟨t, hsend, ht.pad_eq, ht.sel_eq⟩

/-- The whole mode-switch sequence (R163 P3). -/
theorem State.switch_mode {s : State} (x : Byte) (ho : lineOpen s.ctrl = true) (hs : s.sel = .none)
    (hk : s.padKind = .analog) :
    ∃ t, s.sendBytes [0x01#8, 0x44#8, x] = some (t, [0xFF#8, analogId s.pad.analogMode, 0x5A#8]) ∧
      t.HoldsPad .analog s.input { stage := 0, analogMode := !s.pad.analogMode } :=
  hk ▸ State.pad_transaction ho hs (hk ▸ PadDialogue.mode_switch s.input s.pad.analogMode x)

/-- Settles O56: the state after the sequence is one from which it runs again. -/
theorem modeSwitchToggles : Obligations.ModeSwitchToggles := by
  intro s x y id ho hs hk hid
  obtain rfl : id = analogId s.pad.analogMode := hid
  obtain ⟨t, hsend, ht⟩ := State.switch_mode x ho hs hk
  obtain ⟨u, hsend', hu⟩ := State.switch_mode y ht.line_open ht.sel_eq ht.padKind_eq
  exact ⟨t, hsend, by rw [ht.pad_eq], ht.sel_eq, u, _, hsend', by rw [hu.pad_eq, ht.pad_eq, Bool.not_not]⟩

end Sys2Proof.Machine

/-! ## The memory card (spec 44_device_memory_card.md): its tables, the commit of a write, and the write that is aborted -/

namespace Sys2Proof.Machine

/-! A byte to the addressed card, from a turn that leaves the store. -/

section

variable {s : State} {i : Instr} {b : Byte} {r : Row} {c : Card}

/-- An instruction that carries a byte to the addressed card leaves what the card's turn says (R113). -/
theorem State.exec_card_turn (hi : serialByteOf i = some b) (ho : lineOpen s.ctrl = true) (hs : s.sel = .memoryCard)
    (ht : Machine.cardTurn s.card s.store b = .ok { row := r, card := c, store := s.store }) :
    exec i s = .next (s.cardAnswered r.accepted r.resp
      (CardTurn.after { row := r, card := c, store := s.store } s.card.stage)) := by
  rw [exec_of_serialByte hi, State.transmit_card ho hs ht]

/-- A row that goes to stage 0 from any other stage leaves the card idle (R190). -/
theorem State.exec_card_end (hi : serialByteOf i = some b) (ho : lineOpen s.ctrl = true) (hs : s.sel = .memoryCard)
    (h0 : s.card.stage ≠ 0) (hr : r.next = 0)
    (ht : Machine.cardTurn s.card s.store b = .ok { row := r, card := c, store := s.store }) :
    exec i s = .next (s.cardAnswered r.accepted r.resp c.idle) := by
  rw [State.exec_card_turn hi ho hs ht, CardTurn.after, if_pos ⟨hr, h0⟩]

end

/-! The common stages (R171 to R176), beside the lemmas of stages 1 to 4, and the stages without a command (R189). -/

section

variable {c : Card} {b : Byte} (m : Memory)

theorem cardTurn_address (h0 : c.stage = 0) (hb : b = addrCardByte) :
    Machine.cardTurn c m b = .ok { row := .accept Config.idle 1, card := c, store := m } := by
  simp [Machine.cardTurn, h0, hb]

theorem cardTurn_address_mismatch (h0 : c.stage = 0) (hb : b ≠ addrCardByte) :
    Machine.cardTurn c m b = .ok { row := .reject (some .desync), card := c, store := m } := by
  simp [Machine.cardTurn, h0, hb]

theorem cardTurn_command_mismatch (h1 : c.stage = 1) (hread : b ≠ cardReadByte) (hwrite : b ≠ cardWriteByte) :
    Machine.cardTurn c m b = .ok { row := .reject (some .desync), card := c, store := m } := by
  rw [cardTurn_command m b h1, cardCommand, if_neg hread, if_neg hwrite]

theorem cardTurn_noCmd (b : Byte) (h2 : 2 ≤ c.stage) (hc : c.cmd = .noCmd) :
    Machine.cardTurn c m b = .ok { row := .reject none, card := c, store := m } := by
  obtain ⟨n⟩ := c
  match n, h2 with
  | _ + 2, _ => exact if_pos hc

theorem cardTurn_fetch (h5 : c.stage = 5) (hc : c.cmd = .read) (hrange : sectorIndex c.addrHi b < cardSectors) :
    Machine.cardTurn c m b = .ok
      { row := .accept c.addrHi 6
        card := { c with addrLo := b, buf := m.sector (sectorIndex c.addrHi b) }
        store := m } := by
  rw [cardTurn_addressLow (by simp [hc]) h5]
  obtain ⟨-, -, he⟩ | ⟨-, hne, -⟩ | ⟨hout, -⟩ := cardAddressLow_cases c m b
  · exact he
  · exact absurd hc hne
  · exact absurd hrange (Nat.not_lt.2 hout)

theorem cardTurn_address_inRange (h5 : c.stage = 5) (hc : c.cmd = .write)
    (hrange : sectorIndex c.addrHi b < cardSectors) :
    Machine.cardTurn c m b = .ok { row := .accept c.addrHi 6, card := { c with addrLo := b }, store := m } := by
  rw [cardTurn_addressLow (by simp [hc]) h5]
  obtain ⟨-, hread, -⟩ | ⟨-, -, he⟩ | ⟨hout, -⟩ := cardAddressLow_cases c m b
  · simp [hc] at hread
  · exact he
  · exact absurd hrange (Nat.not_lt.2 hout)

theorem cardTurn_address_outOfRange (h5 : c.stage = 5) (hc : c.cmd ≠ .noCmd)
    (hout : cardSectors ≤ sectorIndex c.addrHi b) :
    Machine.cardTurn c m b =
      .ok { row := .reject (some .cardFault), card := { c with addrLo := b }, store := m } := by
  rw [cardTurn_addressLow hc h5]
  obtain ⟨hrange, -⟩ | ⟨hrange, -⟩ | ⟨-, he⟩ := cardAddressLow_cases c m b
  · exact absurd hrange (Nat.not_lt.2 hout)
  · exact absurd hrange (Nat.not_lt.2 hout)
  · exact he

end

/-- A mismatch at stage 0 finds the stage it writes, so the card stays as it was (R171). -/
theorem State.exec_card_address_mismatch {s : State} {i : Instr} {b : Byte} (hi : serialByteOf i = some b)
    (ho : lineOpen s.ctrl = true) (hs : s.sel = .memoryCard) (h0 : s.card.stage = 0) (hb : b ≠ addrCardByte) :
    exec i s = .next (s.cardAnswered false 0xFF#8 s.card) := by
  have hcard : { s.card with stage := 0 } = s.card := by rw [← h0]
  have hafter :
      CardTurn.after { row := .reject (some .desync), card := s.card, store := s.store } s.card.stage = s.card := by
    rw [h0, CardTurn.after_stage_zero]
    exact hcard
  rw [State.exec_card_turn hi ho hs (cardTurn_address_mismatch _ h0 hb), hafter]
  rfl

/-- Settles O42: each clause is one turn of the card. -/
theorem cardHeaderTable : Obligations.CardHeaderTable := by
  intro i b s flag hi ho hs hflag
  obtain rfl : flag = s.card.flag := hflag
  have goes {r : Byte} {n : Nat} {c : Card} := State.exec_card_accept (r := r) (n := n) (c := c) hi ho hs
  have ends {c : Card} {why : Option Condition} (h0 : s.card.stage ≠ 0) :=
    State.exec_card_end (r := .reject why) (c := c) hi ho hs h0 rfl
  refine ⟨fun h0 hb => goes (by simp) (cardTurn_address _ h0 hb),
    fun h0 hb => State.exec_card_address_mismatch hi ho hs h0 hb,
    fun h1 hb => ?_, fun h1 hb => ?_,
    fun h1 hread hwrite => ends (by omega) (cardTurn_command_mismatch _ h1 hread hwrite),
    fun h2 hc => ends (by omega) (cardTurn_noCmd _ b h2 hc),
    fun hc h2 => goes (by simp) (cardTurn_id1 hc h2),
    fun hc h3 => goes (by simp) (cardTurn_id2 hc h3),
    fun hc h4 => goes (by simp) (cardTurn_addressHigh hc h4)⟩
  · subst hb
    exact goes (by simp) (cardTurn_command _ _ h1)
  · subst hb
    exact goes (by simp) (cardTurn_command _ _ h1)

/-- Settles O43: the number the clauses compare with 1024 is the sector index of the two address bytes. -/
theorem cardAddressRange : Obligations.CardAddressRange := by
  intro i b s hi ho hs h5
  rw [← sectorIndex_eq]
  exact ⟨fun hc hrange => State.exec_card_accept hi ho hs (by simp) (cardTurn_fetch _ h5 hc hrange),
    fun hc hrange => State.exec_card_accept hi ho hs (by simp) (cardTurn_address_inRange _ h5 hc hrange),
    fun hc hout => State.exec_card_end hi ho hs (by omega) rfl (cardTurn_address_outOfRange _ h5 hc hout)⟩

/-! The read sequence (R177 to R183), beside the lemma of its data stages. -/

section

variable {c : Card}

theorem cardReadRow_ack1 (h6 : c.stage = 6) : cardReadRow c = .accept 0x5C#8 7 := if_pos h6

theorem cardReadRow_ack2 (h7 : c.stage = 7) : cardReadRow c = .accept 0x5D#8 8 := by
  simp [cardReadRow, cardAck2, h7]

theorem cardReadRow_addrHi (h8 : c.stage = 8) : cardReadRow c = .accept c.addrHi 9 := by
  simp [cardReadRow, h8]

theorem cardReadRow_addrLo (h9 : c.stage = 9) : cardReadRow c = .accept c.addrLo 10 := by
  simp [cardReadRow, h9]

theorem cardReadRow_chk (h138 : c.stage = 138) : cardReadRow c = .accept c.chk 139 := by
  simp [cardReadRow, h138]

theorem cardReadRow_good (h139 : c.stage = 139) : cardReadRow c = .accept 0x47#8 0 := by
  simp [cardReadRow, cardGood, h139]

theorem cardReadRow_invalid (h : 139 < c.stage) : cardReadRow c = .reject none := by
  obtain ⟨-, hle, -⟩ | ⟨heq, -⟩ | ⟨-, hrow⟩ := cardReadRow_cases c
  · omega
  · omega
  · exact hrow

end

/-- Settles O44: each clause is one row of the read's table. -/
theorem cardReadTable : Obligations.CardReadTable := by
  intro i b s hi ho hs hc
  have turn {r : Row} (h6 : 6 ≤ s.card.stage) (hr : cardReadRow s.card = r) :
      Machine.cardTurn s.card s.store b = .ok { row := r, card := s.card, store := s.store } := hr ▸ cardTurn_read hc h6
  have goes {r : Byte} {n : Nat} (h6 : 6 ≤ s.card.stage) (hn : n ≠ 0) (hr : cardReadRow s.card = .accept r n) :=
    State.exec_card_accept hi ho hs hn (turn h6 hr)
  have ends {r : Row} (h6 : 6 ≤ s.card.stage) (hr : cardReadRow s.card = r) (hn : r.next = 0) :=
    State.exec_card_end hi ho hs (by omega) hn (turn h6 hr)
  exact ⟨fun h => goes (by omega) (by simp) (cardReadRow_ack1 h),
    fun h => goes (by omega) (by simp) (cardReadRow_ack2 h),
    fun h => goes (by omega) (by simp) (cardReadRow_addrHi h),
    fun h => goes (by omega) (by simp) (cardReadRow_addrLo h),
    fun n hn h => by
      rw [show 11 + n = 10 + (n + 1) by omega]
      exact goes (by omega) (by simp) (cardReadRow_data hn h),
    fun h => goes (by omega) (by simp) (cardReadRow_chk h),
    fun h => ends (by omega) (cardReadRow_good h) rfl,
    fun h => ends (by omega) (cardReadRow_invalid h) rfl⟩

/-! The write sequence (R184 to R188), beside the lemma of its data stages. -/

/-- The first data byte is answered with the address low byte, which came before it (R184). -/
theorem Card.echo_zero (c : Card) : c.echo 0 = c.addrLo := rfl

/-- Every other data byte is answered with the one before it (R184). -/
theorem Card.echo_succ (c : Card) {n : Nat} (hn : n < 128) : c.echo (n + 1) = c.buf[n] := by
  simp [Card.echo, Card.bufAt_eq c hn]

section

variable {c : Card} (m : Memory) (b : Byte)

theorem cardWriteTurn_ack1 (h135 : c.stage = 135) :
    cardWriteTurn c m b = .ok { row := .accept 0x5C#8 136, card := c, store := m } := by
  simp [cardWriteTurn, cardAck1, h135]

theorem cardWriteTurn_ack2 (h136 : c.stage = 136) :
    cardWriteTurn c m b = .ok { row := .accept 0x5D#8 137, card := c, store := m } := by
  simp [cardWriteTurn, cardAck2, h136]

theorem cardWriteTurn_good (h137 : c.stage = 137) :
    cardWriteTurn c m b = .ok { row := .accept 0x47#8 0, card := c, store := m } := by
  simp [cardWriteTurn, cardGood, h137]

theorem cardWriteTurn_invalid (h : 137 < c.stage) :
    cardWriteTurn c m b = .ok { row := .reject none, card := c, store := m } := by
  rw [cardWriteTurn, if_neg (by omega), if_neg (by omega), if_neg (by omega), if_neg (by omega), if_neg (by omega)]

end

/-- Settles O45: the data stages stage their byte, and every other clause is one turn of the write's table. -/
theorem cardWriteTable : Obligations.CardWriteTable := by
  intro i b s hi ho hs hc
  have data {n : Nat} (hn : n < 128) (h : s.card.stage = 6 + n) :=
    State.exec_card_accept hi ho hs (by simp) (cardTurn_write_data b hc hn h)
  have turn {t : CardTurn} (h6 : 6 ≤ s.card.stage) (ht : cardWriteTurn s.card s.store b = .ok t) :=
    (cardTurn_write hc h6).trans ht
  refine ⟨fun h => ?_, fun n hn h => ?_,
    fun h => State.exec_card_accept hi ho hs (by simp) (turn (by omega) (cardWriteTurn_ack1 _ b h)),
    fun h => State.exec_card_accept hi ho hs (by simp) (turn (by omega) (cardWriteTurn_ack2 _ b h)),
    fun h => State.exec_card_end hi ho hs (by omega) rfl (turn (by omega) (cardWriteTurn_good _ b h)),
    fun h => State.exec_card_end hi ho hs (by omega) rfl (turn (by omega) (cardWriteTurn_invalid _ b h))⟩
  · rw [← Card.echo_zero]
    exact data (by simp) h
  · rw [← Card.echo_succ s.card (by omega), show 8 + n = 6 + (n + 1 + 1) by omega]
    exact data hn (by omega)

/-! The checksum stage of a write (R185). -/

/-- The bytes of the sector written (R60). -/
theorem Memory.read_writeSector_inside {m m' : Memory} {k n : Nat} {d : Sector} (hm : m.wf = true)
    (h : m.writeSector k d = some m') (hn : n < 128) : m'.read (128 * k + n) = d[n] := by
  rw [Memory.read_writeSector hm h]
  simp [Memory.sectorAddress, sectorBytes, hn]

/-- Every byte outside the sector written is left alone (R61). -/
theorem Memory.read_writeSector_outside {m m' : Memory} {k a : Nat} {d : Sector} (hm : m.wf = true)
    (h : m.writeSector k d = some m') (ha : a < 128 * k ∨ 128 * k + 128 ≤ a) : m'.read a = m.read a := by
  rw [Memory.read_writeSector hm h]
  split
  next hle =>
    simp only [Memory.sectorAddress, sectorBytes] at hle ⊢
    rw [Vector.getElem?_eq_none (by omega), Option.getD_none]
  next => rfl

section

variable {c : Card} {m : Memory} {b : Byte}

theorem cardTurn_commit_good {m' : Memory} (hc : c.cmd = .write) (h134 : c.stage = 134) (hb : b = c.chk)
    (hm : m.writeSector c.addr c.buf = some m') :
    Machine.cardTurn c m b =
      .ok { row := .accept c.buf[127] 135, card := { c with fresh := false }, store := m' } := by
  rw [cardTurn_commit hc h134, cardCommit, if_pos hb, hm, ← Card.bufAt_eq c (by decide)]

theorem cardTurn_commit_bad (hc : c.cmd = .write) (h134 : c.stage = 134) (hb : b ≠ c.chk) :
    Machine.cardTurn c m b = .ok { row := .reject (some .cardFault), card := c, store := m } := by
  rw [cardTurn_commit hc h134, cardCommit, if_neg hb]

/-- Only the commit can be refused, so at stage 134 a card that has no write in flight answers whatever its address. -/
theorem cardTurn_answers_of_not_commit (m : Memory) (b : Byte) (h : c.cmd ≠ .write ∨ c.stage ≠ 134) :
    ∃ t, Machine.cardTurn c m b = .ok t ∧ t.store = m := by
  suffices hanswer : ∃ t, Machine.cardTurn c m b = .ok t by
    obtain ⟨t, ht⟩ := hanswer
    obtain hstore | ⟨hw, h134, -⟩ := cardTurn_store ht
    · exact ⟨t, ht, hstore⟩
    · exact absurd h (by simp [hw, h134])
  by_cases h134 : c.stage = 134
  · cases hc : c.cmd with
    | noCmd => exact ⟨_, cardTurn_noCmd m b (by omega) hc⟩
    | read => exact ⟨_, cardTurn_read hc (by omega)⟩
    | write => exact absurd h (by simp [hc, h134])
  · exact cardTurn_answers m b fun h => absurd h h134

end

/-- A wrong checksum byte is answered with the idle byte, and the card is idle (R185, R203). -/
theorem State.exec_bad_checksum {s : State} {i : Instr} {b : Byte} (hi : serialByteOf i = some b)
    (ho : lineOpen s.ctrl = true) (hs : s.sel = .memoryCard) (hc : s.card.cmd = .write) (h134 : s.card.stage = 134)
    (hb : b ≠ s.card.chk) : exec i s = .next (s.cardAnswered false 0xFF#8 s.card.idle) :=
  State.exec_card_end hi ho hs (by omega) rfl (cardTurn_commit_bad hc h134 hb)

/-- Settles O46: the commit leaves the store that `writeSector` answers, and no other turn of the card writes the store. -/
theorem cardChecksumCommitsOrAborts : Obligations.CardChecksumCommitsOrAborts := by
  intro i b s hi ho hs
  refine ⟨fun hc h134 hb haddr hwf => ?_, fun hc h134 hb => State.exec_bad_checksum hi ho hs hc h134 hb, fun h => ?_⟩
  · obtain ⟨m, hm⟩ : ∃ m, s.store.writeSector s.card.addr s.card.buf = some m :=
      ⟨_, Memory.writeSector_eq_some.2 ⟨haddr, rfl⟩⟩
    refine ⟨m, ?_, fun n hn => Memory.read_writeSector_inside hwf hm hn,
      fun a ha => Memory.read_writeSector_outside hwf hm ha, Memory.writeSector_wf hwf hm⟩
    rw [exec_of_serialByte hi, State.transmit_card ho hs (cardTurn_commit_good hc h134 hb hm), CardTurn.after,
      if_neg (by simp)]
    rfl
  · obtain ⟨t, ht, hstore⟩ := cardTurn_answers_of_not_commit s.store b h
    exact ⟨_, (exec_of_serialByte hi s).trans (State.transmit_card ho hs ht), hstore⟩

/-! A write with a wrong checksum (R192 P2). -/

/-- Settles O58: the write runs to its checksum stage with the store as it was, and there the wrong checksum aborts it. -/
theorem badChecksumKeepsStore : Obligations.BadChecksumKeepsStore := by
  intro s k d chk ho hs hk hchk
  obtain ⟨t, hsend, ht⟩ := State.card_transaction ho hs (Dialogue.write_to_checksum s.store d hk rfl)
  obtain ⟨hto, htcard, htstore, htsel⟩ := ht
  have habort : exec (.wrData chk) t = .next (t.cardAnswered false 0xFF#8 t.card.idle) :=
    State.exec_bad_checksum rfl hto htsel (by rw [htcard]) (by rw [htcard]) (by rw [htcard]; exact hchk)
  exact ⟨_, _, State.sendBytes_append hsend (State.sendBytes_singleton habort), htstore, rfl, by rw [htcard]; rfl,
    rfl, rfl, rfl⟩

end Sys2Proof.Machine

/-! ## The conditions (spec 60_exceptions.md): what meets each of them, and what it leaves -/

namespace Sys2Proof.Machine

/-! The bytes a device answers with a condition (R200, R202, R203). -/

/-- A byte the pad does not expect at stage 0 or 1 (R202). -/
def Pad.Mismatch (k : PadKind) (pad : Pad) (b : Byte) : Prop :=
  (pad.stage = 0 ∧ b ≠ addrPadByte) ∨ (pad.stage = 1 ∧ b ≠ padPollByte ∧ ¬ (k = .analog ∧ b = padModeByte))

/-- A byte the card does not expect at stage 0 or 1 (R202). -/
def Card.Mismatch (c : Card) (b : Byte) : Prop :=
  (c.stage = 0 ∧ b ≠ addrCardByte) ∨ (c.stage = 1 ∧ b ≠ cardReadByte ∧ b ≠ cardWriteByte)

/-- A byte that completes an address out of range, or that is a wrong checksum (R203). -/
def Card.Faulty (c : Card) (b : Byte) : Prop :=
  c.cmd ≠ .noCmd ∧
    ((c.stage = 5 ∧ cardSectors ≤ sectorIndex c.addrHi b) ∨ (c.stage = 134 ∧ c.cmd = .write ∧ b ≠ c.chk))

/-- A card at stage 0 has no fault to meet. -/
theorem Card.Faulty.stage_ne_zero {c : Card} {b : Byte} (h : c.Faulty b) : c.stage ≠ 0 := by
  obtain ⟨-, ⟨h5, -⟩ | ⟨h134, -⟩⟩ := h <;> omega

@[simp] theorem Row.condition_accept (r : Byte) (n : Nat) : (Row.accept r n).condition = none := rfl

@[simp] theorem Row.condition_reject (w : Option Condition) : (Row.reject w).condition = w := rfl

/-- Only a rejected byte meets a condition. -/
theorem Row.condition_eq_some {r : Row} {why : Condition} : r.condition = some why ↔ r = .reject (some why) := by
  cases r <;> simp

/-- Past stage 1 a pad rejects at its invalid stages only, which is no condition (R138, R146, R162). -/
theorem padRow_condition_of_two_le (k : PadKind) {pad : Pad} (inp : Input) (b : Byte) (h2 : 2 ≤ pad.stage) :
    (padRow k pad inp b).condition = none := by
  cases k with
  | mouse => simp only [padRow, mouseRow]; split <;> simp_all
  | digital => simp only [padRow, digitalRow]; split <;> simp_all
  | analog => simp only [padRow, analogRow]; split <;> (try split) <;> simp_all

/-- The one condition a pad's table knows is a mismatch. -/
theorem padRow_condition_eq_some {k : PadKind} {pad : Pad} {inp : Input} {b : Byte} {why : Condition} :
    (padRow k pad inp b).condition = some why ↔ why = .desync ∧ pad.Mismatch k b := by
  constructor
  · intro h
    obtain h0 | h1 | h2 : pad.stage = 0 ∨ pad.stage = 1 ∨ 2 ≤ pad.stage := by omega
    · by_cases hb : b = addrPadByte
      · simp [hb, padRow_address k inp h0] at h
      · simp only [padRow_address_mismatch inp k h0 hb, Row.condition_reject, Option.some.injEq] at h
        exact ⟨h.symm, .inl ⟨h0, hb⟩⟩
    · by_cases hpoll : b = padPollByte
      · simp [hpoll, padRow_poll k inp h1] at h
      · by_cases hmode : k = .analog ∧ b = padModeByte
        · obtain ⟨hk, rfl⟩ := hmode
          simp [padRow_mode_analog inp hk h1] at h
        · simp only [padRow_command_mismatch inp h1 hpoll fun hk hb => hmode ⟨hk, hb⟩, Row.condition_reject,
            Option.some.injEq] at h
          exact ⟨h.symm, .inr ⟨h1, hpoll, hmode⟩⟩
    · simp [padRow_condition_of_two_le k inp b h2] at h
  · rintro ⟨rfl, ⟨h0, hb⟩ | ⟨h1, hpoll, hmode⟩⟩
    · rw [padRow_address_mismatch inp k h0 hb, Row.condition_reject]
    · rw [padRow_command_mismatch inp h1 hpoll fun hk hb => hmode ⟨hk, hb⟩, Row.condition_reject]

/-- The read's own stages meet no condition (R177 to R183, R189). -/
theorem cardReadRow_condition (c : Card) : (cardReadRow c).condition = none := by
  obtain ⟨-, -, r, hrow⟩ | ⟨-, hrow⟩ | ⟨-, hrow⟩ := cardReadRow_cases c <;> rw [hrow] <;> rfl

section

variable {c : Card} {m : Memory} {b : Byte} {t : CardTurn} {why : Condition}

/-- The condition that a byte to the addressed card meets, by its cause (R200). -/
def Card.Meets (c : Card) (b : Byte) : Condition → Prop
  | .noDevice => False
  | .desync => c.Mismatch b
  | .cardFault => c.Faulty b

/-- The card's turn where its byte meets a condition: one that rejects the byte, and writes neither the store nor `fresh`. -/
structure CardTurn.Aborts (t : CardTurn) (c : Card) (m : Memory) (why : Condition) : Prop where
  row_eq : t.row = .reject (some why)
  store_eq : t.store = m
  fresh_eq : t.card.fresh = c.fresh

theorem cardAddressLow_of_condition (h5 : c.stage = 5) (hc : c.cmd ≠ .noCmd) (h : cardAddressLow c m b = .ok t)
    (hw : t.row.condition = some why) : c.Meets b why := by
  obtain ⟨-, -, he⟩ | ⟨-, -, he⟩ | ⟨hout, he⟩ := cardAddressLow_cases c m b <;>
    obtain rfl := Except.ok.inj (he.symm.trans h)
  · cases hw
  · cases hw
  · obtain rfl := Option.some.inj hw
    exact ⟨hc, .inl ⟨h5, hout⟩⟩

theorem cardWriteTurn_of_condition (hc : c.cmd = .write) (h : cardWriteTurn c m b = .ok t)
    (hw : t.row.condition = some why) : c.Meets b why := by
  obtain ⟨-, -, rfl⟩ | ⟨-, -, -, _, -, rfl⟩ | ⟨h134, hb, rfl⟩ | ⟨-, -, _, rfl⟩ | ⟨-, rfl⟩ | ⟨-, rfl⟩ :=
    cardWriteTurn_cases h
  · cases hw
  · cases hw
  · obtain rfl := Option.some.inj hw
    exact ⟨by simp [hc], .inr ⟨h134, hc, hb⟩⟩
  · cases hw
  · cases hw
  · cases hw

/-- A condition of the card's turn has one of its causes. -/
theorem cardTurn_of_condition (h : Machine.cardTurn c m b = .ok t) (hw : t.row.condition = some why) :
    c.Meets b why := by
  obtain ⟨-, -, rfl⟩ | ⟨h0, hb, rfl⟩ | ⟨h1, rfl⟩ | ⟨-, -, rfl⟩ | ⟨-, -, rfl⟩ | ⟨-, -, rfl⟩ | ⟨-, -, rfl⟩ |
    ⟨h5, hc, ht⟩ | ⟨-, -, rfl⟩ | ⟨-, hc, ht⟩ := cardTurn_cases h
  · cases hw
  · obtain rfl := Option.some.inj hw
    exact .inl ⟨h0, hb⟩
  · obtain ⟨-, he⟩ | ⟨-, he⟩ | ⟨hread, hwrite, he⟩ := cardCommand_cases c m b <;> rw [he] at hw
    · cases hw
    · cases hw
    · obtain rfl := Option.some.inj hw
      exact .inr ⟨h1, hread, hwrite⟩
  · cases hw
  · cases hw
  · cases hw
  · cases hw
  · exact cardAddressLow_of_condition h5 hc ht hw
  · simp [cardReadRow_condition] at hw
  · exact cardWriteTurn_of_condition hc ht hw

/-- Each cause of a condition makes the card's turn one that aborts. -/
theorem Card.Meets.cardTurn (m : Memory) (h : c.Meets b why) :
    ∃ t, Machine.cardTurn c m b = .ok t ∧ t.Aborts c m why := by
  cases why with
  | noDevice => exact h.elim
  | desync =>
    obtain ⟨h0, hb⟩ | ⟨h1, hread, hwrite⟩ := h
    · exact ⟨_, cardTurn_address_mismatch m h0 hb, rfl, rfl, rfl⟩
    · exact ⟨_, cardTurn_command_mismatch m h1 hread hwrite, rfl, rfl, rfl⟩
  | cardFault =>
    obtain ⟨hc, ⟨h5, hout⟩ | ⟨h134, hwrite, hb⟩⟩ := h
    · exact ⟨_, cardTurn_address_outOfRange m h5 hc hout, rfl, rfl, rfl⟩
    · exact ⟨_, cardTurn_commit_bad hwrite h134 hb, rfl, rfl, rfl⟩

end

@[simp] theorem CardTurn.after_fresh (t : CardTurn) (n : Nat) : (t.after n).fresh = t.card.fresh := by
  unfold CardTurn.after
  split <;> rfl

/-- A sequence that ends leaves the card no command (R190). -/
theorem CardTurn.after_end_cmd (t : CardTurn) {n : Nat} (hn : n ≠ 0) (h : t.row.next = 0) : (t.after n).cmd = .noCmd := by
  rw [CardTurn.after, if_pos ⟨h, hn⟩]
  rfl

/-! The condition of an exchange (R200). -/

/-- The condition that the exchange of a byte meets, by its cause: the line or the address (R201), the addressed device's
stage (R202), the card's address or checksum (R203). -/
def State.Meets (s : State) (b : Byte) : Condition → Prop
  | .noDevice => gateClosed s.ctrl = true ∨ (s.sel = .none ∧ b ≠ addrPadByte ∧ b ≠ addrCardByte)
  | .desync =>
    gateClosed s.ctrl = false ∧
      ((s.sel = .controller ∧ s.pad.Mismatch s.padKind b) ∨ (s.sel = .memoryCard ∧ s.card.Mismatch b))
  | .cardFault => gateClosed s.ctrl = false ∧ s.sel = .memoryCard ∧ s.card.Faulty b

section

variable {s : State} {b : Byte} {u : Turn} {why : Condition}

/-- A course that comes to a condition has met one of its causes. -/
theorem State.Course.meets (h : s.Course b u) (hw : u.cond = some why) : s.Meets b why := by
  cases h with
  | gated hg =>
    obtain rfl := Option.some.inj hw
    exact .inl hg
  | unanswered hg hs hpad hcard =>
    obtain rfl := Option.some.inj hw
    exact .inr ⟨hs, hpad, hcard⟩
  | padSelected | cardSelected => cases hw
  | padAddressed hg hs =>
    obtain ⟨rfl, hmismatch⟩ := padRow_condition_eq_some.1 hw
    exact ⟨hg, .inl ⟨hs, hmismatch⟩⟩
  | cardAddressed t hg hs ht =>
    have hcause := cardTurn_of_condition ht hw
    cases why with
    | noDevice => exact hcause.elim
    | desync => exact ⟨hg, .inr ⟨hs, hcause⟩⟩
    | cardFault => exact ⟨hg, hs, hcause⟩

/-- What a course that meets a condition has come to: the idle byte, no acknowledge, no transaction in flight, the store and
`fresh` as they were, and the device that met it at stage 0 (R201 to R203). -/
structure State.Recovers (s : State) (u : Turn) (why : Condition) : Prop where
  cond_eq : u.cond = some why
  resp_eq : u.resp = Config.idle
  acked_eq : u.acked = false
  sel_eq : u.finish.sel = .none
  store_eq : u.st.store = s.store
  fresh_eq : u.st.card.fresh = s.card.fresh
  pad_stage : why = .desync → s.sel = .controller → u.st.pad.stage = 0
  card_stage : why = .desync → s.sel = .memoryCard → u.st.card.stage = 0
  card_idle : why = .cardFault → u.st.card.stage = 0 ∧ u.st.card.cmd = .noCmd

/-- No device answers, before or after the address phase (R201). -/
theorem State.noDevice_recovers {v : State} (hstore : v.store = s.store) (hfresh : v.card.fresh = s.card.fresh) :
    s.Recovers v.noDevice .noDevice where
  cond_eq := rfl
  resp_eq := rfl
  acked_eq := rfl
  sel_eq := v.noDevice_finish_sel
  store_eq := hstore
  fresh_eq := hfresh
  pad_stage := nofun
  card_stage := nofun
  card_idle := nofun

/-- A mismatch ends the pad's transaction at stage 0 (R202). -/
theorem State.padStepped_recovers (hs : s.sel = .controller) (mode : Bool) :
    s.Recovers (s.padStepped (.reject (some .desync)) mode) .desync where
  cond_eq := rfl
  resp_eq := rfl
  acked_eq := rfl
  sel_eq := State.padStepped_finish_sel hs _ mode
  store_eq := rfl
  fresh_eq := rfl
  pad_stage _ _ := rfl
  card_stage _ hcard := by simp [hs] at hcard
  card_idle := nofun

/-- A condition ends the card's transaction at stage 0, and a card fault, which no card at stage 0 meets, also drops the
command (R202, R203). -/
theorem State.cardStepped_recovers {t : CardTurn} (hs : s.sel = .memoryCard) (h : t.Aborts s.card s.store why)
    (hfault : why = .cardFault → s.card.stage ≠ 0) : s.Recovers (s.cardStepped t) why := by
  obtain ⟨hrow, hstore, hfresh⟩ := h
  have hnext : t.row.next = 0 := by rw [hrow, Row.next_reject]
  have hstage : (t.after s.card.stage).stage = 0 := (t.after_stage _).trans hnext
  exact {
    cond_eq := by rw [State.cardStepped, hrow, Row.condition_reject]
    resp_eq := by rw [State.cardStepped, hrow, Row.resp_reject]
    acked_eq := by rw [State.cardStepped, hrow, Row.acked, Row.accepted_reject, policyAcks_rejected]
    sel_eq := by rw [State.cardStepped_finish_sel hs, if_pos hnext]
    store_eq := hstore
    fresh_eq := (t.after_fresh _).trans hfresh
    pad_stage := fun _ hpad => by simp [hs] at hpad
    card_stage := fun _ _ => hstage
    card_idle := fun hwhy => ⟨hstage, t.after_end_cmd (hfault hwhy) hnext⟩ }

/-- Each cause of a condition is met by a course that recovers from it. -/
theorem State.Meets.recovers (h : s.Meets b why) : ∃ u, s.Course b u ∧ s.Recovers u why := by
  cases why with
  | noDevice =>
    by_cases hg : gateClosed s.ctrl = true
    · exact ⟨_, .gated hg, State.noDevice_recovers rfl rfl⟩
    · obtain ⟨hs, hpad, hcard⟩ := h.resolve_left hg
      exact ⟨_, .unanswered (Bool.eq_false_iff.2 hg) hs hpad hcard, State.noDevice_recovers rfl rfl⟩
  | desync =>
    obtain ⟨hg, ⟨hs, hmismatch⟩ | ⟨hs, hmismatch⟩⟩ := h
    · have hcourse := State.Course.padAddressed hg hs (b := b)
      rw [Row.condition_eq_some.1 (padRow_condition_eq_some.2 ⟨rfl, hmismatch⟩)] at hcourse
      exact ⟨_, hcourse, State.padStepped_recovers hs _⟩
    · obtain ⟨t, ht, habort⟩ := Card.Meets.cardTurn s.store (why := .desync) hmismatch
      exact ⟨_, .cardAddressed t hg hs ht, State.cardStepped_recovers hs habort nofun⟩
  | cardFault =>
    obtain ⟨hg, hs, hfaulty⟩ := h
    obtain ⟨t, ht, habort⟩ := Card.Meets.cardTurn s.store (why := .cardFault) hfaulty
    exact ⟨_, .cardAddressed t hg hs ht, State.cardStepped_recovers hs habort fun _ => hfaulty.stage_ne_zero⟩

/-- An exchange meets a condition exactly by one of its causes (R200). -/
theorem State.exchangeCondition_eq_some : s.exchangeCondition b = some why ↔ s.Meets b why := by
  constructor
  · intro h
    unfold State.exchangeCondition at h
    split at h
    next u hu => exact (State.exchange_course hu).meets h
    next => cases h
  · intro h
    obtain ⟨u, hcourse, hrec⟩ := h.recovers
    rw [State.exchangeCondition, hcourse.exchange]
    exact hrec.cond_eq

/-- Under the invariant an addressed device is past stage 0, so a mismatch is one at stage 1 (R42 (f)). -/
theorem State.Inv.stage_of_desync (hinv : s.Inv) (h : s.Meets b .desync) :
    (s.sel = .controller ∧ s.pad.stage = 1) ∨ (s.sel = .memoryCard ∧ s.card.stage = 1) := by
  obtain ⟨-, ⟨hs, ⟨h0, -⟩ | ⟨h1, -⟩⟩ | ⟨hs, ⟨h0, -⟩ | ⟨h1, -⟩⟩⟩ := h
  · exact absurd h0 (hinv.selected_pad_busy hs)
  · exact .inl ⟨hs, h1⟩
  · exact absurd h0 (hinv.selected_card_busy hs)
  · exact .inr ⟨hs, h1⟩

end

/-- The open gate as the bits of CTRL. -/
theorem gateOpen_iff (c : Half) : gateClosed c = false ↔ c.getLsbD 1 = true ∧ c.getLsbD 13 = false := by
  simp [gateClosed, ctrlSelect, ctrlSlot]

/-- Settles O24: the causes of each condition are those of `State.Meets`, and the exchange that meets one recovers. -/
theorem conditionCausesAndEffects : Obligations.ConditionCausesAndEffects := by
  refine ⟨fun s b => ?_, fun i b s why hi hx hcond => ?_⟩
  · simp only [State.exchangeCondition_eq_some, ← gateClosed_iff, ← and_assoc (a := s.ctrl.getLsbD 1 = true),
      ← gateOpen_iff]
    exact ⟨Iff.rfl, Iff.rfl, State.Inv.stage_of_desync, Iff.rfl⟩
  · obtain ⟨u, hcourse, hrec⟩ := (State.exchangeCondition_eq_some.1 hcond).recovers
    obtain ⟨-, -, hirq, htimer, -⟩ := State.exchange_frame hcourse.exchange
    obtain ⟨-, -, hirq', -, -, -, -, -, -, hstore, hpad, hcard⟩ := u.finish_frame
    refine ⟨u.finish, ?_, ?_, u.finish_rxPending, ?_, hrec.sel_eq, ?_, hirq'.trans hirq, hstore.trans hrec.store_eq,
      ?_, ?_, ?_⟩
    · rw [exec_of_serialByte hi, hcourse.transmit hx, Turn.finish_eq]
    · rw [u.finish_rxData, hrec.resp_eq]
      rfl
    · rw [u.finish_ack, hrec.acked_eq]
    · rw [u.finish_irqTimer, hrec.acked_eq, Bool.false_and, if_neg Bool.false_ne_true, htimer]
    · rw [hcard, hrec.fresh_eq]
    · rw [hpad, hcard]
      exact fun hwhy => ⟨hrec.pad_stage hwhy, hrec.card_stage hwhy⟩
    · rw [hcard]
      exact hrec.card_idle

end Sys2Proof.Machine

/-! ## Reset (spec 70_reset_and_hazards.md): the word of the event and the fields it writes -/

namespace Sys2Proof.Machine

/-- Settles O7: the word is the encoding of `RESET`, whose effect is `State.resetEngine` with the idle byte in the latch. -/
theorem resetEventWritesExactly : Obligations.ResetEventWritesExactly :=
  ⟨decodeOfEncode .reset, fun _ => rfl⟩

end Sys2Proof.Machine
